-- ==== Sys2Proof/Word.lean ====
section
/-! DEFINITION. The one data width of the block (00_scope.md R5, R6): a byte, unsigned, bit 7 the most significant. -/

namespace Sys2Proof

/-- A byte of the bus, of a buffer or of a status register (`DATA_WIDTH` = 8, R5). -/
abbrev Byte := BitVec 8

end Sys2Proof
end

