-- ==== Sys2Proof/Config.lean ====
section
/-! DEFINITION. What an implementation fixes (00_scope.md R5): sizes, the types of the Command Table's
entries, the stub policies, and the two numbers the spec leaves open, as free values.
The Command Table's rows are `Sys2Proof.commandTable` in Decode.lean; the status-bit masks are in Machine/Flags.lean. -/

namespace Sys2Proof

/-- `COMM_BUF_SIZE` (R5). -/
abbrev commBufSize : Nat := 9
/-- `RES_BUF_SIZE` (R5). -/
abbrev resBufSize : Nat := 7
/-- `EXEC_BUF_SIZE` (R5). -/
abbrev execBufSize : Nat := 32768
/-- `NUM_UNITS` (R5, D8). -/
abbrev numUnits : Nat := 4
/-- `N_CATALOG` (R5). -/
abbrev numCatalog : Nat := 16

/-- `direction` of a descriptor (30_encoding.md R49): `out` is controller to CPU, `inn` is CPU to controller. -/
inductive Direction where
  | out
  | inn
  deriving DecidableEq, Repr

/-- `kind` of a descriptor (R49): which family file gives its semantics. -/
inductive CommandKind where
  | implemented
  | stub
  | invalid
  deriving DecidableEq, Repr

/-- Which parameter parser a command's bytes go through (40_phase_machine_and_dispatch.md R68 to R71). -/
inductive ParamLayout where
  /-- R68, all eight positions. -/
  | standard
  /-- R68 with position 7 the scan step. -/
  | scan
  /-- R71: position 0 is Head/UnitSelect, nothing else is parsed. -/
  | headUnit
  /-- R70: Head/UnitSelect, then the new cylinder number. -/
  | seek
  /-- R69, R92: the two SPECIFY bytes. -/
  | specify
  /-- No parameter bytes. -/
  | empty
  deriving DecidableEq, Repr

/-- `CommandDescriptor` (R49). `opcode` is absent for Invalid. `layout` names the parser R68 to R71 gives the command. -/
structure CommandDescriptor where
  opcode : Option (BitVec 5)
  paramCount : Nat
  resultCount : Nat
  direction : Direction
  allowMT : Bool
  allowMF : Bool
  allowSK : Bool
  kind : CommandKind
  layout : ParamLayout
  deriving DecidableEq, Repr

/-- `STUB_POLICY` (R5): `refuse` is R94, `wedge` is R101. -/
inductive StubPolicy where
  | refuse
  | wedge
  deriving DecidableEq, Repr

/-- `CAP_N0_MFM` (R5, R80, U4): the capacity ceiling for size code 0 with MFM, a FREE VALUE (notes/assumptions/11.md). No rule reads it. -/
opaque Config.capN0Mfm : Nat

/-- The capacity ceiling for size codes 4 to 255 by size code and MFM flag, unspecified (R80, U5): a FREE VALUE (notes/assumptions/11.md).
No rule reads it. -/
opaque Config.capLargeN : Byte → Bool → Nat

end Sys2Proof
end

