-- ==== Sys2Proof/Syntax.lean ====
section
/-! DEFINITION. The commands as syntax: one constructor of `Instr` for each row of spec/opcode_table.json
(30_encoding.md R51), with the operand formats of R52 to R54. -/

namespace Sys2Proof

/-- The Head/UnitSelect byte (R52). `pad` holds bits 7:3, which no rule reads. -/
structure HeadUnit where
  pad : BitVec 5
  hd : Bool
  us : BitVec 2
  deriving DecidableEq, Repr

/-- The standard eight parameter bytes (R53). -/
structure StdOperands where
  hu : HeadUnit
  c : Byte
  h : Byte
  r : Byte
  n : Byte
  eot : Byte
  gpl : Byte
  dtl : Byte
  deriving DecidableEq, Repr

/-- The eight parameter bytes of the SCAN commands: as R53 with position 7 the scan step value. -/
structure ScanOperands where
  hu : HeadUnit
  c : Byte
  h : Byte
  r : Byte
  n : Byte
  eot : Byte
  gpl : Byte
  stp : Byte
  deriving DecidableEq, Repr

/-- The five parameter bytes of WRITE_ID (R54). -/
structure FormatOperands where
  hu : HeadUnit
  n : Byte
  sc : Byte
  gpl : Byte
  d : Byte
  deriving DecidableEq, Repr

/-- The two parameter bytes of SPECIFY as the fields of R54. -/
structure SpecifyOperands where
  srt : BitVec 4
  hut : BitVec 4
  hlt : BitVec 7
  nd : Bool
  deriving DecidableEq, Repr

/-- The sixteen catalog entries (R51), each with the flag bits its row leaves free and its parameter bytes. -/
inductive Instr where
  | readData (mt mf sk : Bool) (a : StdOperands)
  | readDeletedData (mt mf sk : Bool) (a : StdOperands)
  | readDiagnostic (mf sk : Bool) (a : StdOperands)
  | readId (mf : Bool) (hu : HeadUnit)
  | writeData (mt mf : Bool) (a : StdOperands)
  | writeId (mf : Bool) (a : FormatOperands)
  | writeDeletedData (mt mf : Bool) (a : StdOperands)
  | scanEqual (mt mf sk : Bool) (a : ScanOperands)
  | scanLowOrEqual (mt mf sk : Bool) (a : ScanOperands)
  | scanHighOrEqual (mt mf sk : Bool) (a : ScanOperands)
  | specify (a : SpecifyOperands)
  | seek (hu : HeadUnit) (ncn : Byte)
  | recalibrate (hu : HeadUnit)
  | senseInterruptStatus
  | senseDriveStatus (hu : HeadUnit)
  | invalid (mt mf sk : Bool) (op : BitVec 5)
  deriving DecidableEq, Repr

end Sys2Proof
end

