-- ==== Sys2Proof/Decode.lean ====
section
/-! DEFINITION. The Command Table (30_encoding.md R51, held here as configuration), the lookup (R50), the field positions
(R48, R52, R54), the decoder, total on any bytes, the encoder written from the same table, and the host's `decodeTableWord`. -/

namespace Sys2Proof

/-! ## Fields of the command byte and of the parameter bytes -/

/-- Command byte bit 7 (R48, C1). -/
def mtOf (b : Byte) : Bool := b.getLsbD 7
/-- Command byte bit 6 (R48). -/
def mfOf (b : Byte) : Bool := b.getLsbD 6
/-- Command byte bit 5 (R48, C1). -/
def skOf (b : Byte) : Bool := b.getLsbD 5
/-- Command byte bits 4:0 (R48). -/
def opcodeOf (b : Byte) : BitVec 5 := b.extractLsb' 0 5

/-- The command byte of three flags and an opcode (R48). -/
def commandByte (mt mf sk : Bool) (op : BitVec 5) : Byte :=
  BitVec.ofBool mt ++ BitVec.ofBool mf ++ BitVec.ofBool sk ++ op

/-- The Head/UnitSelect byte: HD is bit 2, US is bits 1:0 (R52). -/
def HeadUnit.ofByte (b : Byte) : HeadUnit :=
  { pad := b.extractLsb' 3 5, hd := b.getLsbD 2, us := b.extractLsb' 0 2 }

/-- The byte of a Head/UnitSelect operand (R52). -/
def HeadUnit.toByte (hu : HeadUnit) : Byte := hu.pad ++ BitVec.ofBool hu.hd ++ hu.us

/-- The fields of the two SPECIFY bytes (R54). -/
def SpecifyOperands.ofBytes (b0 b1 : Byte) : SpecifyOperands :=
  { srt := b0.extractLsb' 4 4, hut := b0.extractLsb' 0 4, hlt := b1.extractLsb' 1 7, nd := b1.getLsbD 0 }

/-- SPECIFY's first byte (R54). -/
def SpecifyOperands.byte0 (a : SpecifyOperands) : Byte := a.srt ++ a.hut
/-- SPECIFY's second byte (R54). -/
def SpecifyOperands.byte1 (a : SpecifyOperands) : Byte := a.hlt ++ BitVec.ofBool a.nd

/-- Byte `i` of a parameter list. -/
def paramAt (q : List Byte) (i : Nat) : Byte := q.getD i 0

/-- Positions 0 to 7 of the standard layout (R53). -/
def StdOperands.ofBytes (q : List Byte) : StdOperands :=
  { hu := HeadUnit.ofByte (paramAt q 0), c := paramAt q 1, h := paramAt q 2, r := paramAt q 3, n := paramAt q 4,
    eot := paramAt q 5, gpl := paramAt q 6, dtl := paramAt q 7 }

/-- The standard layout's bytes (R53). -/
def StdOperands.bytes (a : StdOperands) : List Byte := [a.hu.toByte, a.c, a.h, a.r, a.n, a.eot, a.gpl, a.dtl]

/-- Positions 0 to 7 of the SCAN layout (R53, R98). -/
def ScanOperands.ofBytes (q : List Byte) : ScanOperands :=
  { hu := HeadUnit.ofByte (paramAt q 0), c := paramAt q 1, h := paramAt q 2, r := paramAt q 3, n := paramAt q 4,
    eot := paramAt q 5, gpl := paramAt q 6, stp := paramAt q 7 }

/-- The SCAN layout's bytes (R53, R98). -/
def ScanOperands.bytes (a : ScanOperands) : List Byte := [a.hu.toByte, a.c, a.h, a.r, a.n, a.eot, a.gpl, a.stp]

/-- Positions 0 to 4 of WRITE_ID (R54). -/
def FormatOperands.ofBytes (q : List Byte) : FormatOperands :=
  { hu := HeadUnit.ofByte (paramAt q 0), n := paramAt q 1, sc := paramAt q 2, gpl := paramAt q 3, d := paramAt q 4 }

/-- WRITE_ID's bytes (R54). -/
def FormatOperands.bytes (a : FormatOperands) : List Byte := [a.hu.toByte, a.n, a.sc, a.gpl, a.d]

/-! ## The Command Table -/

/-- A row of the Command Table: opcode, parameter and result counts, direction, allowed MT, MF, SK, kind, parser. -/
def commandRow (op : BitVec 5) (params results : Nat) (dir : Direction) (mt mf sk : Bool) (kind : CommandKind)
    (layout : ParamLayout) : CommandDescriptor :=
  { opcode := some op, paramCount := params, resultCount := results, direction := dir, allowMT := mt, allowMF := mf,
    allowSK := sk, kind := kind, layout := layout }

/-- The Invalid entry (R51 row 15, R93): no opcode, no parameters, one result byte. Its flags are never consulted. -/
def invalidRow : CommandDescriptor :=
  { opcode := none, paramCount := 0, resultCount := 1, direction := .out, allowMT := true, allowMF := true, allowSK := true,
    kind := .invalid, layout := .empty }

/-- The Command Table (R51), rows 0 to 15 in the order of D4. The opcodes, counts, directions and allowed flags are the spec's
general-knowledge values (D3): this list is the one place that holds them (notes/assumptions/12.md). -/
def commandTable : List CommandDescriptor :=
  [ commandRow 0x06 8 7 .out true true true .implemented .standard,
    commandRow 0x0C 8 7 .out true true true .implemented .standard,
    commandRow 0x02 8 7 .out false true true .implemented .standard,
    commandRow 0x0A 1 7 .out false true false .implemented .headUnit,
    commandRow 0x05 8 7 .inn true true false .stub .standard,
    commandRow 0x0D 5 7 .inn false true false .stub .headUnit,
    commandRow 0x09 8 7 .inn true true false .stub .standard,
    commandRow 0x11 8 7 .inn true true true .stub .scan,
    commandRow 0x19 8 7 .inn true true true .stub .scan,
    commandRow 0x1D 8 7 .inn true true true .stub .scan,
    commandRow 0x03 2 0 .out false false false .implemented .specify,
    commandRow 0x0F 2 0 .out false false false .implemented .seek,
    commandRow 0x07 1 0 .out false false false .implemented .headUnit,
    commandRow 0x08 0 2 .out false false false .implemented .empty,
    commandRow 0x04 1 1 .out false false false .implemented .headUnit,
    invalidRow ]

/-- `CommandTable[i]` (R9: the descriptor is always derived from `CMDIndex`). -/
def descriptor (i : Fin 16) : CommandDescriptor := commandTable.getD i.val invalidRow

/-- The catalog's indices 0 to 14, the entries with an opcode. -/
def opcodeIndices : List (Fin 16) := [0, 1, 2, 3, 4, 5, 6, 7, 8, 9, 10, 11, 12, 13, 14]

/-- The Invalid entry's index (R51). -/
def invalidIndex : Fin 16 := 15

/-- A flag bit of `b` is set that the entry does not allow (R50). -/
def illegalFlags (e : CommandDescriptor) (b : Byte) : Bool :=
  (mtOf b && !e.allowMT) || (mfOf b && !e.allowMF) || (skOf b && !e.allowSK)

/-- The lookup of R50: the entry with the opcode of `b`, or Invalid where there is none or a flag is not allowed. -/
def selectIndex (b : Byte) : Fin 16 :=
  match opcodeIndices.find? (fun i => (descriptor i).opcode == some (opcodeOf b)) with
  | some i => if illegalFlags (descriptor i) b then invalidIndex else i
  | none => invalidIndex

/-! ## Decoding -/

/-- Why a byte list is no whole command: it is empty, or the entry its first byte selects has more parameter bytes. -/
inductive DecodeError where
  | noCommandByte
  | truncated (index : Fin 16) (wanted got : Nat)
  deriving DecidableEq, Repr

/-- The instruction of catalog entry `i` (R51) with the given flags, opcode and parameter bytes (R52 to R54).
Only the Invalid entry reads `op`. -/
def instrOf (i : Fin 16) (mt mf sk : Bool) (op : BitVec 5) (q : List Byte) : Instr :=
  match i.val with
  | 0 => .readData mt mf sk (StdOperands.ofBytes q)
  | 1 => .readDeletedData mt mf sk (StdOperands.ofBytes q)
  | 2 => .readDiagnostic mf sk (StdOperands.ofBytes q)
  | 3 => .readId mf (HeadUnit.ofByte (paramAt q 0))
  | 4 => .writeData mt mf (StdOperands.ofBytes q)
  | 5 => .writeId mf (FormatOperands.ofBytes q)
  | 6 => .writeDeletedData mt mf (StdOperands.ofBytes q)
  | 7 => .scanEqual mt mf sk (ScanOperands.ofBytes q)
  | 8 => .scanLowOrEqual mt mf sk (ScanOperands.ofBytes q)
  | 9 => .scanHighOrEqual mt mf sk (ScanOperands.ofBytes q)
  | 10 => .specify (SpecifyOperands.ofBytes (paramAt q 0) (paramAt q 1))
  | 11 => .seek (HeadUnit.ofByte (paramAt q 0)) (paramAt q 1)
  | 12 => .recalibrate (HeadUnit.ofByte (paramAt q 0))
  | 13 => .senseInterruptStatus
  | 14 => .senseDriveStatus (HeadUnit.ofByte (paramAt q 0))
  | _ => .invalid mt mf sk op

/-- The decoder (R47, R50): the command at the front of the bytes and the bytes after it. Every command byte selects an entry
(R58), so it rejects only a list that is too short. -/
def decode : List Byte → Except DecodeError (Instr × List Byte)
  | [] => .error .noCommandByte
  | b :: rest =>
    let i := selectIndex b
    let n := (descriptor i).paramCount
    if rest.length < n then .error (.truncated i n rest.length)
    else .ok (instrOf i (mtOf b) (mfOf b) (skOf b) (opcodeOf b) (rest.take n), rest.drop n)

/-! ## Encoding -/

/-- The catalog entry an instruction stands for (R51). -/
def Instr.index : Instr → Fin 16
  | .readData .. => 0
  | .readDeletedData .. => 1
  | .readDiagnostic .. => 2
  | .readId .. => 3
  | .writeData .. => 4
  | .writeId .. => 5
  | .writeDeletedData .. => 6
  | .scanEqual .. => 7
  | .scanLowOrEqual .. => 8
  | .scanHighOrEqual .. => 9
  | .specify .. => 10
  | .seek .. => 11
  | .recalibrate .. => 12
  | .senseInterruptStatus => 13
  | .senseDriveStatus .. => 14
  | .invalid .. => 15

/-- The parameter bytes of an instruction in the order they are written (R46, R53, R54). -/
def Instr.params : Instr → List Byte
  | .readData _ _ _ a => a.bytes
  | .readDeletedData _ _ _ a => a.bytes
  | .readDiagnostic _ _ a => a.bytes
  | .readId _ hu => [hu.toByte]
  | .writeData _ _ a => a.bytes
  | .writeId _ a => a.bytes
  | .writeDeletedData _ _ a => a.bytes
  | .scanEqual _ _ _ a => a.bytes
  | .scanLowOrEqual _ _ _ a => a.bytes
  | .scanHighOrEqual _ _ _ a => a.bytes
  | .specify a => [a.byte0, a.byte1]
  | .seek hu ncn => [hu.toByte, ncn]
  | .recalibrate hu => [hu.toByte]
  | .senseInterruptStatus => []
  | .senseDriveStatus hu => [hu.toByte]
  | .invalid _ _ _ _ => []

/-- The opcode of catalog entry `i`, 0 for the Invalid entry, which has none. -/
def opcodeAt (i : Fin 16) : BitVec 5 := (descriptor i).opcode.getD 0

/-- The command byte of an instruction: its flags and its table row's opcode (R48, R51). -/
def Instr.head : Instr → Byte
  | .readData mt mf sk _ => commandByte mt mf sk (opcodeAt 0)
  | .readDeletedData mt mf sk _ => commandByte mt mf sk (opcodeAt 1)
  | .readDiagnostic mf sk _ => commandByte false mf sk (opcodeAt 2)
  | .readId mf _ => commandByte false mf false (opcodeAt 3)
  | .writeData mt mf _ => commandByte mt mf false (opcodeAt 4)
  | .writeId mf _ => commandByte false mf false (opcodeAt 5)
  | .writeDeletedData mt mf _ => commandByte mt mf false (opcodeAt 6)
  | .scanEqual mt mf sk _ => commandByte mt mf sk (opcodeAt 7)
  | .scanLowOrEqual mt mf sk _ => commandByte mt mf sk (opcodeAt 8)
  | .scanHighOrEqual mt mf sk _ => commandByte mt mf sk (opcodeAt 9)
  | .specify _ => commandByte false false false (opcodeAt 10)
  | .seek _ _ => commandByte false false false (opcodeAt 11)
  | .recalibrate _ => commandByte false false false (opcodeAt 12)
  | .senseInterruptStatus => commandByte false false false (opcodeAt 13)
  | .senseDriveStatus _ => commandByte false false false (opcodeAt 14)
  | .invalid mt mf sk op => commandByte mt mf sk op

/-- The bytes of an instruction: the command byte, then the parameter bytes (R47). -/
def encode (i : Instr) : List Byte := i.head :: i.params

/-! ## The host's words -/

/-- The nine bytes of a table word, byte 0 its bits 7:0, with every bit at or above `nbits` zero (notes/assumptions/16.md). -/
def tableBytes (nbits w : Nat) : List Byte :=
  [0, 1, 2, 3, 4, 5, 6, 7, 8].map (fun k => BitVec.ofNat 8 ((w % 2 ^ nbits) >>> (8 * k)))

/-- The instruction the decoder reads from a table word, operand bytes the table gives no bits being zero. -/
def decodeTableWord (nbits w : Nat) : Option Instr :=
  match decode (tableBytes nbits w) with
  | .ok (i, _) => some i
  | .error _ => none

end Sys2Proof
end

