-- ==== Sys2Proof/Machine/State.lean ====
section
/-! DEFINITION. The state of the block (10_state.md R7 to R27), of the Drive/Disk Model it queries (R26, R27), the calls the
agents have still to make (00_scope.md R4), and the state after reset (R29). Plain data throughout. -/

namespace Sys2Proof.Machine

/-! ## Sequencing -/

/-- `Phase` (R8). -/
inductive Phase where
  | idle
  | command
  | execution
  | result
  deriving DecidableEq, Repr

/-- `PHASE_ENCODING` (R5, R8): for implementers, never visible on the bus. -/
def Phase.code : Phase → Nat
  | .idle => 0
  | .command => 1
  | .execution => 2
  | .result => 3

/-- `CommBuffer` and its write cursor `CommCounter` (R10). -/
structure ParamBuffer where
  bytes : Vector Byte 9
  counter : Nat
  deriving DecidableEq, Repr

/-- `ResBuffer`, its read cursor `ResCounter` and `ResLength` (R11). -/
structure ResultBuffer where
  bytes : Vector Byte 7
  counter : Nat
  length : Nat
  deriving DecidableEq, Repr

/-- The bytes of `ExecBuffer` (R12, R31 b) as address and byte pairs in one canonical form: addresses strictly rising, no
entry equal to what an unlisted address reads as (notes/assumptions/5.md). -/
abbrev Memory := List Host.Cell

/-- What an unlisted address of the execution buffer reads as: the reset and zero-fill value (R12, R29). -/
def unlistedByte : Byte := 0x00

/-- The canonical form of `Memory`. -/
abbrev Memory.wf (m : Memory) : Prop :=
  m.Pairwise (fun x y => x.1 < y.1) ∧ ∀ x ∈ m, x.2 ≠ unlistedByte

/-- `ExecBuffer`, `ExecWr`, `ExecLength`, `ExecCounter` (R12). -/
structure ExecBuffer where
  mem : Memory
  wr : Nat
  length : Nat
  counter : Nat
  deriving DecidableEq, Repr

/-! ## Flags, parameters, Specify fields -/

/-- `CMD_FLAG_MT`, `CMD_FLAG_MF`, `CMD_FLAG_SK` (R13). -/
structure CommandFlags where
  mt : Bool
  mf : Bool
  sk : Bool
  deriving DecidableEq, Repr

/-- `CommandParameters`, written `P` in the spec (R14). -/
structure CommandParameters where
  us : BitVec 2
  side : Bool
  c : Byte
  h : Byte
  r : Byte
  n : Byte
  eot : Byte
  gpl : Byte
  dtl : Byte
  stp : Byte
  deriving DecidableEq, Repr

/-- `P` with every field 0 (R14, R67). -/
def CommandParameters.zero : CommandParameters :=
  { us := 0, side := false, c := 0, h := 0, r := 0, n := 0, eot := 0, gpl := 0, dtl := 0, stp := 0 }

/-- `SRT`, `HUT`, `HLT` in milliseconds and `ND` (R15). -/
structure SpecifyTimes where
  srt : Nat
  hut : Nat
  hlt : Nat
  nd : Bool
  deriving DecidableEq, Repr

/-- `SRT_Counter`, `HUT_Counter`, `HLT_Counter`, `IndexPulseCounter` (R16). -/
structure Countdown where
  srt : Nat
  hut : Nat
  hlt : Nat
  index : Nat
  deriving DecidableEq, Repr

/-- The Status Register Bank: `ST0` to `ST3` and `StatusMain` (R20). -/
structure StatusBank where
  st0 : Byte
  st1 : Byte
  st2 : Byte
  st3 : Byte
  msr : Byte
  deriving DecidableEq, Repr

/-- `SeekState[d]` (R18). -/
inductive SeekState where
  | seekIdle
  | seeking
  | recalibrating
  | acknowledged
  deriving DecidableEq, Repr

/-! ## The Drive/Disk Model -/

/-- A sector record (R27): its address field, its data bytes and its two status-flag bytes. -/
structure Sector where
  c : Byte
  h : Byte
  r : Byte
  n : Byte
  data : List Byte
  st1 : Byte
  st2 : Byte
  deriving DecidableEq, Repr

/-- A `TrackRecord` (R27) with the number it is found by: sectors in table order, index 0 first. -/
structure Track where
  number : Nat
  sectors : List Sector
  deriving DecidableEq, Repr

/-- The drive-state record of one unit (R26). `disk` lists the inserted disk's tracks (notes/assumptions/9.md). -/
structure DriveRecord where
  ready : Bool
  writeProtect : Bool
  track : Nat
  sectorIndex : Nat
  disk : Option (List Track)
  deriving DecidableEq, Repr

/-- The default of `DriveInit` (R5, R121): track 0, sector index 0, no disk, not ready, not write-protected
(notes/assumptions/3.md). -/
def DriveRecord.init : DriveRecord :=
  { ready := false, writeProtect := false, track := 0, sectorIndex := 0, disk := none }

/-! ## The agents' calls -/

/-- The register select (R32): `MSR_ADDR` or `DATA_ADDR`. -/
inductive RegSelect where
  | msr
  | data
  deriving DecidableEq, Repr

/-- `MSR_ADDR` = 0, `DATA_ADDR` = 1 (R5, R32, D2). -/
def RegSelect.addr : RegSelect → BitVec 1
  | .msr => 0
  | .data => 1

/-- One call from outside (R4): a bus read or write by the host, a tick, a reset, or the environment replacing a drive-state
record, disk included, between two steps (R42). -/
inductive BusEvent where
  | read (a : RegSelect)
  | write (a : RegSelect) (v : Byte)
  | tick
  | reset
  | setDrive (d : BitVec 2) (record : DriveRecord)
  deriving DecidableEq, Repr

/-! ## The state -/

/-- The state of the machine. `inbox` is the MODEL's own field: the agents' calls not yet made, the next one first
(notes/assumptions/1.md). `policy` is the parameter `STUB_POLICY`, which no step writes (4.md). `dout` is the byte the last bus
read returned (D1; 2.md). Everything else is `ControllerState` (R7) and the drive-state records (R26). -/
structure State where
  phase : Phase
  cmdIndex : Fin 16
  comm : ParamBuffer
  res : ResultBuffer
  xbuf : ExecBuffer
  flags : CommandFlags
  p : CommandParameters
  times : SpecifyTimes
  counters : Countdown
  bank : StatusBank
  lastReceived : Byte
  lastToSend : Byte
  seek : Vector SeekState 4
  driveIndex : BitVec 2
  drives : Vector DriveRecord 4
  policy : StubPolicy
  dout : Byte
  inbox : List BusEvent
  deriving DecidableEq, Repr

/-- The machine right after reset (R29, R121), the drives at the default of `DriveInit`, no call pending. -/
def State.reset : State where
  phase := .idle
  cmdIndex := 15
  comm := { bytes := Vector.replicate 9 0x00, counter := 0 }
  res := { bytes := Vector.replicate 7 0x00, counter := 0, length := 0 }
  xbuf := { mem := [], wr := 0, length := 0, counter := 0 }
  flags := { mt := false, mf := false, sk := false }
  p := CommandParameters.zero
  times := { srt := 0, hut := 0, hlt := 0, nd := false }
  counters := { srt := 0, hut := 0, hlt := 0, index := 0 }
  bank := { st0 := 0x00, st1 := 0x00, st2 := 0x00, st3 := 0x00, msr := 0x80 }
  lastReceived := 0x00
  lastToSend := 0x00
  seek := Vector.replicate 4 .seekIdle
  driveIndex := 0
  drives := Vector.replicate 4 DriveRecord.init
  policy := .refuse
  dout := 0x00
  inbox := []

/-! ## Outcomes -/

/-- Why the machine stops with a fault. The hardware has none (60_exceptions.md R102): each of these is raised only in a state
that no run from reset reaches (notes/assumptions/7.md). All are safe: the model stops where the spec says nothing. -/
inductive Fault where
  /-- Raised by a parameter write with `CommCounter` at 9 or above. Safe. -/
  | paramIndexOutOfRange
  /-- Raised by a Result-phase data read with `ResCounter` at 7 or above. Safe. -/
  | resultIndexOutOfRange
  /-- Raised by an Execution-phase data read with `ExecCounter` = 0, above `ExecLength`, or an index at 32768 or above. Safe. -/
  | execIndexOutOfRange
  /-- Raised by the sector loop after 256 passes that did not meet the end-of-track id (R81 derives that this cannot be). Safe. -/
  | readLoopBound
  deriving DecidableEq, Repr

/-- Why a step has no meaning (notes/assumptions/18.md). -/
inductive Refusal where
  /-- Raised by `exec` for an instruction that has no meaning yet. Safe. -/
  | notModelled (mnemonic : String)
  /-- `refuse(StubCommand)`: raised by the six stub commands under `STUB_POLICY = refuse` (R94). Safe. -/
  | stubCommand
  /-- `refuse(ExecBufferOverflow)`: raised by a read command that would copy past `ExecBuffer[32767]` (R39). Safe. -/
  | execBufferOverflow
  deriving DecidableEq, Repr

end Sys2Proof.Machine
end

