-- ==== Sys2Proof/Machine/Flags.lean ====
section
/-! DEFINITION. The bits of the status registers (10_state.md R21 to R25; positions are the spec's general-knowledge values D6,
D7, notes/assumptions/12.md), the operations on them (00_scope.md R6), and every status computation of the spec. -/

namespace Sys2Proof.Machine

/-! ## Bit masks -/

/-- MSR bit 7, request for master (R21). -/
def msrRQM : Byte := 0x80
/-- MSR bit 6, direction (R21). -/
def msrDIO : Byte := 0x40
/-- MSR bit 5, execution mode (R21). -/
def msrEXM : Byte := 0x20
/-- MSR bit 4, controller busy (R21). -/
def msrCB : Byte := 0x10

/-- ST0 bit 6, the abnormal termination bit (R22). -/
def st0IC0 : Byte := 0x40
/-- ST0 bit 3, not ready (R22). -/
def st0NR : Byte := 0x08
/-- The whole ST0 byte of a completed seek: SE (R22, R90). -/
def st0SeekEnd : Byte := 0x20
/-- The whole ST0 byte of an acknowledged seek: interrupt code 11 (R22, R90). -/
def st0Acknowledged : Byte := 0xC0
/-- The whole ST0 byte of an unknown command: interrupt code 10 (R22, R90, R93). -/
def st0Unknown : Byte := 0x80

/-- ST1 bit 7, end of track (R23). -/
def st1EN : Byte := 0x80
/-- ST1 bit 5, data error (R23). -/
def st1DE : Byte := 0x20
/-- ST1 bit 2, no data (R23). -/
def st1ND : Byte := 0x04

/-- ST2 bit 6, control mark (R24). -/
def st2CM : Byte := 0x40
/-- ST2 bit 5, data error in the data field (R24). -/
def st2DD : Byte := 0x20

/-- ST3 bit 7, fault (R25). -/
def st3FT : Byte := 0x80
/-- ST3 bit 6, write protected (R25). -/
def st3WP : Byte := 0x40
/-- ST3 bit 5, ready (R25). -/
def st3RY : Byte := 0x20
/-- ST3 bit 4, track zero (R25). -/
def st3T0 : Byte := 0x10
/-- ST3 bit 2, head address (R25). -/
def st3HD : Byte := 0x04

/-! ## `SetBit`, `ClearBit`, `Test` (R6) -/

/-- `SetBit(reg, name)` for the bits of `mask` (R6). -/
def setBits (reg mask : Byte) : Byte := reg ||| mask
/-- `ClearBit(reg, name)` for the bits of `mask` (R6). -/
def clearBits (reg mask : Byte) : Byte := reg &&& ~~~mask
/-- `Test(reg, name)`: some bit of `mask` is set (R6). -/
def testBits (reg mask : Byte) : Bool := (reg &&& mask) != 0
/-- `mask` where `c` holds, no bit where it does not. -/
def bitIf (c : Bool) (mask : Byte) : Byte := if c then mask else 0

/-! ## The main status register -/

/-- The data register serves reads: Result, and Execution of a controller-to-CPU command (R63). -/
def servesReads (ph : Phase) (dir : Direction) : Bool :=
  ph == .result || (ph == .execution && dir == .out)

/-- The main status register, computed live from the phase and the active command's direction (R21, R63). RQM is always 1 and
the drive-busy bits are always 0. -/
def mainStatus (ph : Phase) (dir : Direction) : Byte :=
  msrRQM ||| bitIf (servesReads ph dir) msrDIO ||| bitIf (ph == .execution) msrEXM ||| bitIf (ph != .idle) msrCB

/-! ## The error conditions that short-circuit a command -/

/-- The conditions of `raise` (R111). -/
inductive ShortCircuit where
  | notReady
  | trackNotFound
  | sectorNotFound
  deriving DecidableEq, Repr

/-- The bits a raised condition sets, by OR (R103, R111). -/
def StatusBank.raise (x : ShortCircuit) (b : StatusBank) : StatusBank :=
  match x with
  | .notReady => { b with st0 := setBits (setBits b.st0 st0IC0) st0NR }
  | .trackNotFound => { b with st0 := setBits (setBits b.st0 st0IC0) st0NR }
  | .sectorNotFound => { b with st0 := setBits b.st0 st0IC0, st1 := setBits b.st1 st1ND }

/-- The per-command status bits: ST0, ST1, ST2 cleared, ST3 kept (R78, D28). -/
def StatusBank.clear (b : StatusBank) : StatusBank := { b with st0 := 0x00, st1 := 0x00, st2 := 0x00 }

/-! ## Flags of a copied sector (R77, R81) -/

/-- The record carries the deleted address mark: the CM bit of its second status byte (R77). -/
def Sector.deleted (s : Sector) : Bool := testBits s.st2 st2CM

/-- The sector is not one the command wants (R77): READ_DATA wants unmarked sectors, READ_DELETED_DATA marked ones. -/
def Sector.mismatch (wantDeleted : Bool) (s : Sector) : Bool := s.deleted ^^ wantDeleted

/-- Propagation: ST1 and ST2 are assigned from the record, EN masked off (R81 step 5). -/
def StatusBank.propagate (s : Sector) (b : StatusBank) : StatusBank :=
  { b with st1 := clearBits s.st1 st1EN, st2 := s.st2 }

/-- The DataError test on the propagated registers (R81 step 6, R107). -/
def StatusBank.dataError (b : StatusBank) : Bool := testBits b.st1 st1DE || testBits b.st2 st2DD

/-- DataError sets the abnormal termination bit (R107). -/
def StatusBank.markDataError (b : StatusBank) : StatusBank := { b with st0 := setBits b.st0 st0IC0 }

/-- ControlMark sets CM and the abnormal termination bit (R108). -/
def StatusBank.markControl (b : StatusBank) : StatusBank :=
  { b with st2 := setBits b.st2 st2CM, st0 := setBits b.st0 st0IC0 }

/-- ST3 of SENSE_DRIVE_STATUS: the fault bit alone for a unit other than 0, else unit, head, track-zero, ready and
write-protect bits (R25, R91). -/
def driveStatus (us : BitVec 2) (side atTrackZero ready writeProtected : Bool) : Byte :=
  if us != 0 then st3FT
  else us.setWidth 8 ||| bitIf side st3HD ||| bitIf atTrackZero st3T0 ||| bitIf ready st3RY
    ||| bitIf writeProtected st3WP

end Sys2Proof.Machine
end

