-- ==== Sys2Proof/Machine/Ops.lean ====
section
/-! DEFINITION. The named operations the bus rules and the commands share: the execution buffer's memory (20_memory.md R38),
the Drive/Disk Model's calls (R40), Commit (40_phase_machine_and_dispatch.md R74), the error short-circuit `raise`
(60_exceptions.md R111) and the way back from it, the drain of the result (R113, R64), the tick (R75) and reset (R121). -/

namespace Sys2Proof.Machine

/-! ## The execution buffer's memory -/

/-- The byte at address `a`. -/
def Memory.read (m : Memory) (a : Nat) : Byte :=
  match m with
  | [] => unlistedByte
  | (k, v) :: rest => if k = a then v else Memory.read rest a

/-- Writes one byte, keeping the canonical form. -/
def Memory.write (m : Memory) (a : Nat) (v : Byte) : Memory :=
  match m with
  | [] => if v = unlistedByte then [] else [(a, v)]
  | (k, w) :: rest =>
    if a < k then (if v = unlistedByte then (k, w) :: rest else (a, v) :: (k, w) :: rest)
    else if a = k then (if v = unlistedByte then rest else (a, v) :: rest)
    else (k, w) :: Memory.write rest a v

/-- Writes bytes at ascending addresses from `a` (R38). -/
def Memory.writeList (m : Memory) (a : Nat) (data : List Byte) : Memory :=
  match data with
  | [] => m
  | b :: bs => Memory.writeList (Memory.write m a b) (a + 1) bs

/-- `for k in 0 .. 32767: ExecBuffer[k] <- 0x00; ExecWr <- 0` (R78, D33). -/
def ExecBuffer.clear (x : ExecBuffer) : ExecBuffer := { x with mem := [], wr := 0 }

/-- The copy of a sector's bytes at the write cursor (R38, R81 step 5). -/
def ExecBuffer.append (data : List Byte) (x : ExecBuffer) : ExecBuffer :=
  { x with mem := x.mem.writeList x.wr data, wr := x.wr + data.length }

/-- The copy would pass `ExecBuffer[32767]` (R39). -/
def ExecBuffer.overflows (data : List Byte) (x : ExecBuffer) : Bool := decide (x.wr + data.length > execBufSize)

/-! ## The Drive/Disk Model's calls (R40) -/

/-- The drive-state record of unit `d`. -/
def State.drive (s : State) (d : BitVec 2) : DriveRecord := s.drives[d.toNat]'d.isLt

/-- Replaces the drive-state record of unit `d`. -/
def State.setDriveRecord (s : State) (d : BitVec 2) (r : DriveRecord) : State :=
  { s with drives := s.drives.set d.toNat r d.isLt }

/-- `IsReady(d)`: only unit 0 is modelled and no disk implies not ready (R26, D23; notes/assumptions/10.md). -/
def State.isReady (s : State) (d : BitVec 2) : Bool :=
  d == 0 && (s.drive d).ready && (s.drive d).disk.isSome

/-- `IsWriteProtected(d)` (R40). -/
def State.isWriteProtected (s : State) (d : BitVec 2) : Bool := (s.drive d).writeProtect

/-- `IsAtTrackZero(d)`: `track(d) = 0` (R26, D24). -/
def State.isAtTrackZero (s : State) (d : BitVec 2) : Bool := (s.drive d).track == 0

/-- `CurrentTrack(d)` (R40). -/
def State.currentTrack (s : State) (d : BitVec 2) : Nat := (s.drive d).track

/-- `SectorIndex(d)` (R40). -/
def State.sectorIndex (s : State) (d : BitVec 2) : Nat := (s.drive d).sectorIndex

/-- The track of a disk with a given number: the first in the list's order, which is the environment's (R41, U6,
notes/assumptions/9.md). -/
def lookupInDisk (disk : List Track) (n : Nat) : Option Track := disk.find? (fun t => t.number == n)

/-- `LookupTrack(d, n)`: none for a unit other than 0 (R26, D23), with no disk, or with no track of that number (R40). -/
def State.lookupTrack (s : State) (d : BitVec 2) (n : Nat) : Option Track :=
  if d == 0 then (s.drive d).disk.bind (fun disk => lookupInDisk disk n) else none

/-- `SetCurrentTrack(d, t)` (R40, C6). -/
def State.setCurrentTrack (s : State) (d : BitVec 2) (t : Nat) : State :=
  s.setDriveRecord d { s.drive d with track := t }

/-- `SetSectorIndex(d, i)` (R40). -/
def State.setSectorIndex (s : State) (d : BitVec 2) (i : Nat) : State :=
  s.setDriveRecord d { s.drive d with sectorIndex := i }

/-- `SeekState[d]` (R18). -/
def State.seekState (s : State) (d : BitVec 2) : SeekState := s.seek[d.toNat]'d.isLt

/-- `SeekState[d] <- x` (R18). -/
def State.setSeekState (s : State) (d : BitVec 2) (x : SeekState) : State :=
  { s with seek := s.seek.set d.toNat x d.isLt }

/-! ## Results -/

/-- The standard seven result bytes `ST0, ST1, ST2, C, H, R, N` (R56, D8). -/
def standardResult (b : StatusBank) (p : CommandParameters) : Vector Byte 7 :=
  #v[b.st0, b.st1, b.st2, p.c, p.h, p.r, p.n]

/-- `CommitResultCHRN(); CommitResultStatus()` (R74). -/
def State.commit (s : State) : State := { s with res := { s.res with bytes := standardResult s.bank s.p } }

/-- A one-byte result: `ResBuffer[0] <- v; ResLength <- 1` (R90, R91, R93). -/
def ResultBuffer.one (v : Byte) (r : ResultBuffer) : ResultBuffer :=
  { r with bytes := r.bytes.set 0 v, length := 1 }

/-- A two-byte result: `ResBuffer[0] <- v; ResBuffer[1] <- w; ResLength <- 2` (R90). -/
def ResultBuffer.two (v w : Byte) (r : ResultBuffer) : ResultBuffer :=
  { r with bytes := (r.bytes.set 0 v).set 1 w, length := 2 }

/-! ## Taking an error condition, and the way back -/

/-- `raise X`, the error short-circuit (R111): the condition's bits, both commits, no execution bytes, `Phase <- Result`. The state
it gives is the one the step ends in. -/
def State.raiseCondition (x : ShortCircuit) (s : State) : State :=
  let s := { s with bank := s.bank.raise x }
  let s := s.commit
  { s with xbuf := { s.xbuf with length := 0, counter := 0 }, phase := .result }

/-- A Result-phase data read, by which the controller returns to Idle (R64, R113). -/
def State.readResultByte (s : State) : Host.Outcome State Fault Refusal :=
  if h : s.res.counter < 7 then
    let v := s.res.bytes[s.res.counter]
    let counter := s.res.counter + 1
    .next { s with res := { s.res with counter := counter },
                   phase := if counter = s.res.length then .idle else s.phase, lastToSend := v, dout := v }
  else .fault .resultIndexOutOfRange

/-- An Execution-phase data read of a controller-to-CPU command: the byte at `ExecLength - ExecCounter`, the counter down by one,
Result at zero (R64, R38, C3, C4). -/
def State.readExecByte (s : State) : Host.Outcome State Fault Refusal :=
  let i := s.xbuf.length - s.xbuf.counter
  if 0 < s.xbuf.counter ∧ s.xbuf.counter ≤ s.xbuf.length ∧ i < execBufSize then
    let v := s.xbuf.mem.read i
    let counter := s.xbuf.counter - 1
    .next { s with xbuf := { s.xbuf with counter := counter },
                   phase := if counter = 0 then .result else s.phase, lastToSend := v, dout := v }
  else .fault .execIndexOutOfRange

/-- The byte a data-register read answers where it is not served (R64). -/
def defaultDataByte : Byte := 0xFF

/-- A data read that is not served: 0xFF, nothing changes but `LastByteToSend` (R64). -/
def State.readDefaultByte (s : State) : State := { s with lastToSend := defaultDataByte, dout := defaultDataByte }

/-! ## The main status register -/

/-- `BusRead(MSR_ADDR)` (R63): the stored byte is rewritten with the value returned. -/
def State.readMainStatus (s : State) : State :=
  let v := mainStatus s.phase (descriptor s.cmdIndex).direction
  { s with bank := { s.bank with msr := v }, dout := v }

/-! ## Tick and reset -/

/-- `Tick`: each countdown counter above 0 goes down by 1 (R75; notes/assumptions/13.md). -/
def State.tick (s : State) : State :=
  { s with counters := { srt := s.counters.srt - 1, hut := s.counters.hut - 1, hlt := s.counters.hlt - 1,
                         index := s.counters.index - 1 } }

/-- `Reset` (R121): every element of `ControllerState` and `P` at its reset value. The drive records, the policy parameter, the
last byte on `dout` and the calls still to come are no part of it (notes/assumptions/17.md). -/
def State.resetController (s : State) : State :=
  { State.reset with drives := s.drives, policy := s.policy, dout := s.dout, inbox := s.inbox }

end Sys2Proof.Machine
end

