-- ==== Sys2Proof/Machine/Operands.lean ====
section
/-! DEFINITION. How the bytes of a command reach the state: `ParseCommandByte` and `BeginCommand`
(40_phase_machine_and_dispatch.md R66, R67), the parameter parsers (R68 to R71), and the operands of an instruction as the
flags and the scratch record `P` they are parsed into. -/

namespace Sys2Proof.Machine

/-! ## The command byte -/

/-- `ParseCommandByte(b)` (R66): the flags are latched whether or not the lookup succeeds. -/
def State.parseCommandByte (b : Byte) (s : State) : State :=
  { s with flags := { mt := mtOf b, mf := mfOf b, sk := skOf b }, cmdIndex := selectIndex b }

/-- `BeginCommand()` (R67): the Idle to Command transition. -/
def State.beginCommand (s : State) : State :=
  { s with phase := .command,
           comm := { s.comm with counter := 0 },
           res := { s.res with counter := 0, length := (descriptor s.cmdIndex).resultCount },
           xbuf := { s.xbuf with wr := 0, length := 0, counter := 0 },
           p := CommandParameters.zero }

/-- The Idle arm of a data write up to dispatch: `LastByteReceived <- b; ParseCommandByte(b); BeginCommand()` (R65). -/
def State.acceptCommandByte (b : Byte) (s : State) : State :=
  (({ s with lastReceived := b } : State).parseCommandByte b).beginCommand

/-! ## SPECIFY's conversions (R55, R92, D9) -/

/-- `SRT = 16 - srt`. -/
def stepRateTime (code : BitVec 4) : Nat := 16 - code.toNat
/-- `HUT`: 255 for code 0, else `code * 16`. -/
def headUnloadTime (code : BitVec 4) : Nat := if code = 0 then 255 else code.toNat * 16
/-- `HLT`: 255 for code 0, else `code * 2`. -/
def headLoadTime (code : BitVec 7) : Nat := if code = 0 then 255 else code.toNat * 2

/-- The two fields SPECIFY's first byte carries (R54, R92). -/
def SpecifyTimes.setByte0 (srt hut : BitVec 4) (t : SpecifyTimes) : SpecifyTimes :=
  { t with srt := stepRateTime srt, hut := headUnloadTime hut }

/-- The two fields SPECIFY's second byte carries (R54, R92). -/
def SpecifyTimes.setByte1 (hlt : BitVec 7) (nd : Bool) (t : SpecifyTimes) : SpecifyTimes :=
  { t with hlt := headLoadTime hlt, nd := nd }

/-- `ParseParamByte_SPECIFY(i, b)` (R92): the fields, and the countdown counters loaded with them. -/
def State.parseSpecify (i : Nat) (b : Byte) (s : State) : State :=
  match i with
  | 0 =>
    let t := s.times.setByte0 (SpecifyOperands.ofBytes b 0).srt (SpecifyOperands.ofBytes b 0).hut
    { s with times := t, counters := { s.counters with srt := t.srt, hut := t.hut } }
  | 1 =>
    let t := s.times.setByte1 (SpecifyOperands.ofBytes 0 b).hlt (SpecifyOperands.ofBytes 0 b).nd
    { s with times := t, counters := { s.counters with hlt := t.hlt } }
  | _ => s

/-! ## The scratch record `P` -/

/-- Position 0 into `P` (R52, R68). -/
def CommandParameters.setHeadUnit (hu : HeadUnit) (p : CommandParameters) : CommandParameters :=
  { p with us := hu.us, side := hu.hd }

/-- Positions 1 to 6 into `P` (R68); 7 is DTL or, for the SCAN commands, STP. -/
def CommandParameters.setStandard (i : Nat) (b : Byte) (scan : Bool) (p : CommandParameters) : CommandParameters :=
  match i with
  | 1 => { p with c := b }
  | 2 => { p with h := b }
  | 3 => { p with r := b }
  | 4 => { p with n := b }
  | 5 => { p with eot := b }
  | 6 => { p with gpl := b }
  | 7 => if scan then { p with stp := b } else { p with dtl := b }
  | _ => p

/-- `ParseParamByteStandard(0, b)` (R68): `P.US`, `P.Side` and `DriveIndex`. -/
def State.parseHeadUnit (b : Byte) (s : State) : State :=
  { s with p := s.p.setHeadUnit (HeadUnit.ofByte b), driveIndex := (HeadUnit.ofByte b).us }

/-- `ParseParamByteStandard(i, b)` (R68). -/
def State.parseStandard (scan : Bool) (i : Nat) (b : Byte) (s : State) : State :=
  match i with
  | 0 => s.parseHeadUnit b
  | _ => { s with p := s.p.setStandard i b scan }

/-- `ParseParamByte(i, b)` of the parser the active command's layout names (R68 to R71). -/
def State.parseParamByte (i : Nat) (b : Byte) (s : State) : State :=
  match (descriptor s.cmdIndex).layout with
  | .standard => s.parseStandard false i b
  | .scan => s.parseStandard true i b
  | .headUnit => if i = 0 then s.parseHeadUnit b else s
  | .seek => if i = 0 then s.parseHeadUnit b else if i = 1 then { s with p := { s.p with c := b } } else s
  | .specify => s.parseSpecify i b
  | .empty => s

/-- The Command arm of a data write up to completion (R65): latch, store at `CommBuffer[CommCounter]`, parse, count. -/
def State.acceptParam (b : Byte) (s : State) : State :=
  let i := s.comm.counter
  let s : State := { s with lastReceived := b, comm := { s.comm with bytes := s.comm.bytes.setIfInBounds i b } }
  let s := s.parseParamByte i b
  { s with comm := { s.comm with counter := i + 1 } }

/-- The parameter bytes of a list accepted one after the other. -/
def State.acceptParams (bs : List Byte) (s : State) : State := bs.foldl (fun s b => s.acceptParam b) s

/-- The bytes of a whole command accepted from Idle: the command byte, then its parameters. -/
def State.acceptBytes (bs : List Byte) (s : State) : State :=
  match bs with
  | [] => s
  | b :: ps => (s.acceptCommandByte b).acceptParams ps

/-- The instruction whose bytes have been accepted: the active catalog entry with the latched flags and `CommBuffer`.
`op` is the opcode field of the command byte, which only the Invalid entry carries. -/
def State.fetched (s : State) (op : BitVec 5) : Instr :=
  instrOf s.cmdIndex s.flags.mt s.flags.mf s.flags.sk op s.comm.bytes.toList

/-! ## Operands of an instruction as the meanings read them

A meaning runs in the state in which all bytes of its command have been accepted, where the flags and `P` already hold its
operands; it states them again from the instruction's own fields (notes/assumptions/6.md). -/

/-- `P` after the eight standard parameter bytes of a command (R53, R67, R68). -/
def stdParameters (a : StdOperands) : CommandParameters :=
  { us := a.hu.us, side := a.hu.hd, c := a.c, h := a.h, r := a.r, n := a.n, eot := a.eot, gpl := a.gpl, dtl := a.dtl, stp := 0 }

/-- `P` after a lone Head/UnitSelect byte (R67, R68, R71). -/
def headUnitParameters (hu : HeadUnit) : CommandParameters :=
  { CommandParameters.zero with us := hu.us, side := hu.hd }

/-- `P` after SEEK's two bytes (R67, R70). -/
def seekParameters (hu : HeadUnit) (ncn : Byte) : CommandParameters := { headUnitParameters hu with c := ncn }

/-! ## Sizes (R80) -/

/-- `secSize`: DTL for size code 0, else `128 << N`, an unbounded natural number (R80). -/
def sectorSize (p : CommandParameters) : Nat := if p.n = 0 then p.dtl.toNat else 128 <<< p.n.toNat

/-- `maxTransferCap` by size code and MFM flag (R80). The two values the spec leaves open are free values. -/
def transferCap (n : Byte) (mf : Bool) : Nat :=
  match n.toNat, mf with
  | 0, false => 3328
  | 0, true => Config.capN0Mfm
  | 1, false => 3840
  | 1, true => 6656
  | 2, false => 4096
  | 2, true => 7680
  | 3, false => 4096
  | 3, true => 8192
  | _, _ => Config.capLargeN n mf

/-- `ComputeSizes()` as far as it reaches the state: `P.DTL <- 0xFF` when `P.N` is not 0 (R80). `sectorSize` and `transferCap` are
scratch values no rule reads (R30; notes/assumptions/23.md). -/
def CommandParameters.computeSizes (p : CommandParameters) : CommandParameters :=
  if p.n = 0 then p else { p with dtl := 0xFF }

end Sys2Proof.Machine
end

