-- ==== Sys2Proof/Machine/Control.lean ====
section
/-! DEFINITION. SPECIFY and INVALID (43_specify_invalid.md R92, R93). -/

namespace Sys2Proof.Machine

/-- SPECIFY (R92): its fields, which the parser of each byte has already stored together with the countdown counters
(`State.parseSpecify`), and Idle. -/
def execSpecify (a : SpecifyOperands) (s : State) : Host.Outcome State Fault Refusal :=
  .next { s with times := (s.times.setByte0 a.srt a.hut).setByte1 a.hlt a.nd, phase := .idle }

/-- INVALID (R93): the flags of the offending byte stay latched. -/
def execInvalid (mt mf sk : Bool) (_op : BitVec 5) (s : State) : Host.Outcome State Fault Refusal :=
  .next { s with flags := { mt := mt, mf := mf, sk := sk }, bank := { s.bank with st0 := st0Unknown },
                 res := s.res.one st0Unknown, phase := .result }

end Sys2Proof.Machine
end

