-- ==== Sys2Proof/Machine/ReadFamily.lean ====
section
/-! DEFINITION. READ_DATA, READ_DELETED_DATA, READ_DIAGNOSTIC and READ_ID (41_read_family.md R77 to R86): their completion,
run inside the data-register write that delivers the last parameter byte. -/

namespace Sys2Proof.Machine

/-- The operands of a read command in the state: the flags its row leaves free and `P` (notes/assumptions/6.md). -/
def State.withOperands (f : CommandFlags) (p : CommandParameters) (s : State) : State := { s with flags := f, p := p }

/-! ## Shared procedures -/

/-- `LookupTrack(d, CurrentTrack(d))` with a missing or empty track answered none (R41, R78). -/
def State.trackUnderHead (s : State) (d : BitVec 2) : Option Track :=
  match s.lookupTrack d (s.currentTrack d) with
  | some t => if t.sectors.isEmpty then none else some t
  | none => none

/-- `ReadPreamble()` (R78): the state in which the step ends on NotReady or TrackNotFound, else the state and the track. -/
def State.readPreamble (s : State) : Except State (State × Track) :=
  let s : State := { s with bank := s.bank.clear, xbuf := s.xbuf.clear }
  let d := s.p.us
  if s.isReady d then
    let s : State := { s with p := s.p.computeSizes }
    match s.trackUnderHead d with
    | some t => .ok (s, t)
    | none => .error (s.raiseCondition .trackNotFound)
  else .error (s.raiseCondition .notReady)

/-- `FindSector(t, r)` (R79): the first record in table order with sector id `r`, and its table index. -/
def findSector (sectors : List Sector) (r : Byte) : Option (Nat × Sector) :=
  match sectors with
  | [] => none
  | x :: xs => if x.r = r then some (0, x) else (findSector xs r).map (fun y => (y.1 + 1, y.2))

/-- The advance of step 7 (R82) for the sector at table index `i`: on the track's last sector EN, the next cylinder and sector 1,
else the next sector. Both advance modulo 256 (D20). -/
def State.advance (t : Track) (i : Nat) (s : State) : State :=
  if i + 1 = t.sectors.length then
    { s with bank := { s.bank with st1 := setBits s.bank.st1 st1EN }, p := { s.p with c := s.p.c + 1, r := 1 } }
  else { s with p := { s.p with r := s.p.r + 1 } }

/-- Execution with the accumulated byte count, or Result where no byte was accumulated (R82, D17). -/
def State.serve (s : State) : State :=
  if s.xbuf.wr > 0 then
    { s with xbuf := { s.xbuf with length := s.xbuf.wr, counter := s.xbuf.wr }, phase := .execution }
  else { s with xbuf := { s.xbuf with length := 0, counter := 0 }, phase := .result }

/-- `Finish(t, s)` for the sector at table index `i` (R82). -/
def State.finish (t : Track) (i : Nat) (s : State) : State := (s.advance t i).commit.serve

/-- Step 5 and step 6 of the sector loop on a found sector (R81): copy, propagate, DataError, ControlMark. The flag says that
the loop ends after it. -/
def State.takeSector (wantDeleted : Bool) (x : Sector) (s : State) : State × Bool :=
  let b := s.bank.propagate x
  let dataError := b.dataError
  let controlMark := !s.flags.sk && x.mismatch wantDeleted
  let b := if dataError then b.markDataError else b
  let b := if controlMark then b.markControl else b
  ({ s with xbuf := s.xbuf.append x.data, bank := b,
            p := if controlMark then { s.p with eot := s.p.r } else s.p },
   dataError || controlMark)

/-- `ReadLoop(t, wantDeleted)` (R81). `passes` counts the passes that may follow this one: 255 at the start, since a loop
that has met 256 sector ids has met `P.EOT` (R81; notes/assumptions/8.md). -/
def State.readLoop (wantDeleted : Bool) (t : Track) (passes : Nat) (s : State) : Host.Outcome State Fault Refusal :=
  match findSector t.sectors s.p.r with
  | none => .next (s.raiseCondition .sectorNotFound)
  | some (i, x) =>
    if s.flags.sk && x.mismatch wantDeleted then
      if s.p.r = s.p.eot then .next (s.finish t i)
      else
        match passes with
        | 0 => .fault .readLoopBound
        | n + 1 => State.readLoop wantDeleted t n { s with p := { s.p with r := s.p.r + 1 } }
    else if s.xbuf.overflows x.data then .refused .execBufferOverflow
    else
      let y := s.takeSector wantDeleted x
      if y.1.p.r = y.1.p.eot ∨ y.2 = true then .next (y.1.finish t i)
      else
        match passes with
        | 0 => .fault .readLoopBound
        | n + 1 => State.readLoop wantDeleted t n { y.1 with p := { y.1.p with r := y.1.p.r + 1 } }

/-- `Complete_READ_DATA` and `Complete_READ_DELETED_DATA` (R83, R84), which differ in `wantDeleted` only. -/
def State.completeRead (wantDeleted : Bool) (s : State) : Host.Outcome State Fault Refusal :=
  match s.readPreamble with
  | .error s => .next s
  | .ok (s, t) => s.readLoop wantDeleted t 255

/-- The record's CHRN differs from the requested one (R85). -/
def Sector.differs (p : CommandParameters) (x : Sector) : Bool := x.c != p.c || x.h != p.h || x.r != p.r || x.n != p.n

/-- The sector loop of READ_DIAGNOSTIC (R85) over the records still to visit: every record is copied, ND is accumulated. None
where the execution buffer would overflow. -/
def State.diagnosticLoop (sectors : List Sector) (s : State) : Option State :=
  match sectors with
  | [] => some s
  | x :: xs =>
    if s.xbuf.overflows x.data then none
    else
      State.diagnosticLoop xs
        { s with xbuf := s.xbuf.append x.data,
                 bank := if x.differs s.p then { s.bank with st1 := setBits s.bank.st1 st1ND } else s.bank }

/-! ## The commands -/

/-- READ_DATA (R83). -/
def execReadData (mt mf sk : Bool) (a : StdOperands) (s : State) : Host.Outcome State Fault Refusal :=
  (s.withOperands { mt := mt, mf := mf, sk := sk } (stdParameters a)).completeRead false

/-- READ_DELETED_DATA (R84). -/
def execReadDeletedData (mt mf sk : Bool) (a : StdOperands) (s : State) : Host.Outcome State Fault Refusal :=
  (s.withOperands { mt := mt, mf := mf, sk := sk } (stdParameters a)).completeRead true

/-- READ_DIAGNOSTIC (R85). -/
def execReadDiagnostic (mf sk : Bool) (a : StdOperands) (s : State) : Host.Outcome State Fault Refusal :=
  match (s.withOperands { s.flags with mf := mf, sk := sk } (stdParameters a)).readPreamble with
  | .error s => .next s
  | .ok (s, t) =>
    match s.diagnosticLoop t.sectors with
    | none => .refused .execBufferOverflow
    | some s => .next (s.finish t (t.sectors.length - 1))

/-- READ_ID on a found track, the record at index `i` (R86). -/
def State.reportSector (d : BitVec 2) (n i : Nat) (x : Sector) (s : State) : State :=
  let s : State := { s with p := { s.p with c := x.c, h := x.h, r := x.r, n := x.n } }
  let s := (s.setSectorIndex d ((i + 1) % n)).commit
  { s with phase := .result }

/-- READ_ID (R86). -/
def execReadId (mf : Bool) (hu : HeadUnit) (s : State) : Host.Outcome State Fault Refusal :=
  let s := s.withOperands { s.flags with mf := mf } (headUnitParameters hu)
  let s : State := { s with bank := s.bank.clear }
  let d := s.p.us
  if s.isReady d then
    match s.trackUnderHead d with
    | some t =>
      let n := t.sectors.length
      let i := s.sectorIndex d % n
      match t.sectors[i]? with
      | some x => .next (s.reportSector d n i x)
      | none => .next (s.raiseCondition .trackNotFound)
    | none => .next (s.raiseCondition .trackNotFound)
  else .next (s.raiseCondition .notReady)

end Sys2Proof.Machine
end

