-- ==== Sys2Proof/Machine/SeekFamily.lean ====
section
/-! DEFINITION. SEEK, RECALIBRATE, SENSE_INTERRUPT_STATUS and SENSE_DRIVE_STATUS (42_seek_family.md R87 to R91). -/

namespace Sys2Proof.Machine

/-- A seek's effect: the unit's track, its latched seek state, Idle (R88, R89). -/
def State.seekTo (d : BitVec 2) (t : Nat) (x : SeekState) (s : State) : State :=
  let s := (s.setCurrentTrack d t).setSeekState d x
  { s with phase := .idle }

/-- SEEK (R88). -/
def execSeek (hu : HeadUnit) (ncn : Byte) (s : State) : Host.Outcome State Fault Refusal :=
  let s : State := { s with p := seekParameters hu ncn }
  .next (s.seekTo s.p.us ncn.toNat .seeking)

/-- RECALIBRATE (R89). -/
def execRecalibrate (hu : HeadUnit) (s : State) : Host.Outcome State Fault Refusal :=
  let s : State := { s with p := headUnitParameters hu }
  .next (s.seekTo s.p.us 0 .recalibrating)

/-- SENSE_INTERRUPT_STATUS (R90): the unit examined is `DriveIndex`. -/
def execSenseInterruptStatus (s : State) : Host.Outcome State Fault Refusal :=
  let d := s.driveIndex
  match s.seekState d with
  | .seeking | .recalibrating =>
    let s : State := { s with bank := { s.bank with st0 := st0SeekEnd },
                              res := s.res.two st0SeekEnd (BitVec.ofNat 8 (s.currentTrack d)), phase := .result }
    .next (s.setSeekState d .acknowledged)
  | .acknowledged =>
    let s : State := { s with bank := { s.bank with st0 := st0Acknowledged }, res := s.res.one st0Acknowledged, phase := .result }
    .next (s.setSeekState d .seekIdle)
  | .seekIdle =>
    .next { s with bank := { s.bank with st0 := st0Unknown }, res := s.res.one st0Unknown, phase := .result }

/-- SENSE_DRIVE_STATUS (R91). -/
def execSenseDriveStatus (hu : HeadUnit) (s : State) : Host.Outcome State Fault Refusal :=
  let s : State := { s with p := headUnitParameters hu }
  let v := driveStatus s.p.us s.p.side (s.isAtTrackZero 0) (s.isReady 0) (s.isWriteProtected 0)
  .next { s with bank := { s.bank with st3 := v }, res := s.res.one v, phase := .result }

end Sys2Proof.Machine
end

