-- ==== Sys2Proof/Machine/Stubs.lean ====
section
/-! DEFINITION. The write and scan commands (44_write_scan_stubs.md R94 to R101): dispatch stubs. The parameter `STUB_POLICY`
decides between the spec's refusal (R94) and its alternative, the empty no-op across every phase (R101). -/

namespace Sys2Proof.Machine

/-- A stub's routine: refused under `STUB_POLICY = refuse` (R94), an empty no-op under `wedge` (R101). -/
def State.stubRoutine (s : State) : Host.Outcome State Fault Refusal :=
  match s.policy with
  | .refuse => .refused .stubCommand
  | .wedge => .next s

/-- WRITE_DATA (R95). -/
def execWriteData (_mt _mf : Bool) (_a : StdOperands) (s : State) : Host.Outcome State Fault Refusal := s.stubRoutine

/-- WRITE_ID (R96). -/
def execWriteId (_mf : Bool) (_a : FormatOperands) (s : State) : Host.Outcome State Fault Refusal := s.stubRoutine

/-- WRITE_DELETED_DATA (R97). -/
def execWriteDeletedData (_mt _mf : Bool) (_a : StdOperands) (s : State) : Host.Outcome State Fault Refusal := s.stubRoutine

/-- SCAN_EQUAL (R98). -/
def execScanEqual (_mt _mf _sk : Bool) (_a : ScanOperands) (s : State) : Host.Outcome State Fault Refusal := s.stubRoutine

/-- SCAN_LOW_OR_EQUAL (R99). -/
def execScanLowOrEqual (_mt _mf _sk : Bool) (_a : ScanOperands) (s : State) : Host.Outcome State Fault Refusal :=
  s.stubRoutine

/-- SCAN_HIGH_OR_EQUAL (R100). -/
def execScanHighOrEqual (_mt _mf _sk : Bool) (_a : ScanOperands) (s : State) : Host.Outcome State Fault Refusal :=
  s.stubRoutine

end Sys2Proof.Machine
end

