-- ==== Sys2Proof/Machine/Dispatch.lean ====
section
/-! DEFINITION. `CompleteCommand()` (40_phase_machine_and_dispatch.md R72): one meaning for each catalog entry. -/

namespace Sys2Proof.Machine

/-- The completion rule of an instruction, in the state in which its bytes have been accepted (R72). -/
def exec (i : Instr) (s : State) : Host.Outcome State Fault Refusal :=
  match i with
  | .readData mt mf sk a => Sys2Proof.Machine.execReadData mt mf sk a s
  | .readDeletedData mt mf sk a => Sys2Proof.Machine.execReadDeletedData mt mf sk a s
  | .readDiagnostic mf sk a => Sys2Proof.Machine.execReadDiagnostic mf sk a s
  | .readId mf hu => Sys2Proof.Machine.execReadId mf hu s
  | .writeData mt mf a => Sys2Proof.Machine.execWriteData mt mf a s
  | .writeId mf a => Sys2Proof.Machine.execWriteId mf a s
  | .writeDeletedData mt mf a => Sys2Proof.Machine.execWriteDeletedData mt mf a s
  | .scanEqual mt mf sk a => Sys2Proof.Machine.execScanEqual mt mf sk a s
  | .scanLowOrEqual mt mf sk a => Sys2Proof.Machine.execScanLowOrEqual mt mf sk a s
  | .scanHighOrEqual mt mf sk a => Sys2Proof.Machine.execScanHighOrEqual mt mf sk a s
  | .specify a => Sys2Proof.Machine.execSpecify a s
  | .seek hu ncn => Sys2Proof.Machine.execSeek hu ncn s
  | .recalibrate hu => Sys2Proof.Machine.execRecalibrate hu s
  | .senseInterruptStatus => Sys2Proof.Machine.execSenseInterruptStatus s
  | .senseDriveStatus hu => Sys2Proof.Machine.execSenseDriveStatus hu s
  | .invalid mt mf sk op => Sys2Proof.Machine.execInvalid mt mf sk op s

end Sys2Proof.Machine
end

