-- ==== Sys2Proof/Machine/Bus.lean ====
section
/-! DEFINITION. The bus entry points (40_phase_machine_and_dispatch.md R62 to R65, R73), what each agent's call does (00_scope.md R4),
and how a table word's instruction is placed where the next step runs it. -/

namespace Sys2Proof.Machine

/-- `BusRead(DATA_ADDR)` (R64). -/
def busReadData (s : State) : Host.Outcome State Fault Refusal :=
  match s.phase with
  | .execution =>
    match (descriptor s.cmdIndex).direction with
    | .out => s.readExecByte
    | .inn => .next s.readDefaultByte
  | .result => s.readResultByte
  | .idle => .next s.readDefaultByte
  | .command => .next s.readDefaultByte

/-- The Idle arm of R65: the command byte; a stub's routine and a parameterless command run at once (R73, R94). -/
def writeIdle (b : Byte) (s : State) : Host.Outcome State Fault Refusal :=
  let s := s.acceptCommandByte b
  let e := descriptor s.cmdIndex
  if e.kind = .stub ∨ e.paramCount = 0 then exec (s.fetched (opcodeOf b)) s else .next s

/-- The Command arm of R65: a parameter byte; the last one completes the command (R72). A stub's routine is an empty no-op here
too, or a refusal (R94, R101; notes/assumptions/15.md, 21.md). -/
def writeCommand (b : Byte) (s : State) : Host.Outcome State Fault Refusal :=
  let e := descriptor s.cmdIndex
  if e.kind = .stub then exec (s.fetched (opcodeAt s.cmdIndex)) s
  else if s.comm.counter < commBufSize then
    let s := s.acceptParam b
    if s.comm.counter = e.paramCount then exec (s.fetched (opcodeAt s.cmdIndex)) s else .next s
  else .fault .paramIndexOutOfRange

/-- `BusWrite(DATA_ADDR, b)` (R65). A write in Execution of a CPU-to-controller command reaches a stub's routine (R94, R101). -/
def busWriteData (b : Byte) (s : State) : Host.Outcome State Fault Refusal :=
  match s.phase with
  | .idle => writeIdle b s
  | .command => writeCommand b s
  | .execution =>
    match (descriptor s.cmdIndex).direction with
    | .out => .next s
    | .inn => exec (s.fetched (opcodeAt s.cmdIndex)) s
  | .result => .next s

/-- What one call from outside does (R4, R62): a write to the main status register is ignored (R37). -/
def handle (e : BusEvent) (s : State) : Host.Outcome State Fault Refusal :=
  match e with
  | .read .msr => .next s.readMainStatus
  | .read .data => busReadData s
  | .write .msr _ => .next s
  | .write .data b => busWriteData b s
  | .tick => .next s.tick
  | .reset => .next s.resetController
  | .setDrive d r => .next (s.setDriveRecord d r)

/-- The state with the instruction of `bs` where the next step runs it: every byte but the one that completes the command has
been accepted from Idle, and that one is the next call (notes/assumptions/16.md). -/
def placeBytes (bs : List Byte) (s : State) : State :=
  match bs with
  | [] => s
  | b :: ps =>
    let e := descriptor (selectIndex b)
    if e.kind = .stub ∨ e.paramCount = 0 then
      { s with phase := .idle, inbox := .write .data b :: s.inbox }
    else
      let s' := State.acceptBytes (b :: ps.take (e.paramCount - 1)) { s with phase := .idle }
      { s' with inbox := .write .data (paramAt ps (e.paramCount - 1)) :: s.inbox }

end Sys2Proof.Machine
end

