-- ==== Sys2Proof/Machine/Step.lean ====
section
/-! DEFINITION. One step: the next call of the agents, made whole (00_scope.md R4, 20_memory.md R43). -/

namespace Sys2Proof.Machine

/-- One step. The controller has no step of its own (R4): with no call pending nothing changes. -/
def step (s : State) : Host.Outcome State Fault Refusal :=
  match s.inbox with
  | [] => .next s
  | e :: rest => handle e { s with inbox := rest }

/-- `s` with the table word's instruction placed so that the very next step runs it (notes/assumptions/16.md). -/
def State.withFetchWord (s : State) (nbits w : Nat) : State := placeBytes (tableBytes nbits w) s

end Sys2Proof.Machine
end

