-- ==== Sys2Proof/WellFormed.lean ====
section
/-! DEFINITION. Well-formed instructions. Every operand field has the width of its encoding, so the one check is that an
`invalid` term carries a command byte the lookup sends to the Invalid entry (30_encoding.md R50, R58). -/

namespace Sys2Proof

/-- The instruction is one the encoding can write: an INVALID command's byte selects no other entry. -/
def Instr.wf : Instr → Bool
  | .invalid mt mf sk op => selectIndex (commandByte mt mf sk op) == invalidIndex
  | _ => true

end Sys2Proof
end

