-- ==== Sys2Proof/Safety.lean ====
section
/-! DEFINITION. The terms claims use: the invariant of the states a run can reach (10_state.md R28), what a read command leaves
alone, and the phase changes the spec allows (40_phase_machine_and_dispatch.md R61). -/

namespace Sys2Proof.Machine

/-- The active command's descriptor, `ActiveCommand` (R9). -/
def State.active (s : State) : CommandDescriptor := descriptor s.cmdIndex

/-- The parameter bytes accepted so far. -/
def State.accepted (s : State) : List Byte := s.comm.bytes.toList.take s.comm.counter

/-- `P` as the parser of a layout leaves it after the bytes `bs`, from all zero (R67 to R71). -/
def parsedParameters (l : ParamLayout) (bs : List Byte) : CommandParameters :=
  match l with
  | .standard => stdParameters (StdOperands.ofBytes bs)
  | .scan => { stdParameters (StdOperands.ofBytes bs) with dtl := 0, stp := paramAt bs 7 }
  | .headUnit => headUnitParameters (HeadUnit.ofByte (paramAt bs 0))
  | .seek => seekParameters (HeadUnit.ofByte (paramAt bs 0)) (paramAt bs 1)
  | .specify => CommandParameters.zero
  | .empty => CommandParameters.zero

/-- The invariant of the machine: the clauses (2) to (4) of R28, and what they rest on. Clauses (1) and (5) hold by the types:
there is one `phase`, and the descriptor is computed from `cmdIndex`. -/
structure Inv (s : State) : Prop where
  /-- R28 (2). -/
  paramBound : s.comm.counter ≤ s.active.paramCount
  /-- R28 (2), strict in Command. -/
  paramStrict : s.phase = .command → s.comm.counter < s.active.paramCount
  /-- R28 (3). -/
  resultBound : s.res.counter ≤ s.res.length
  /-- R11: seven result bytes. -/
  resultSize : s.res.length ≤ 7
  /-- R28 (3), strict in Result. -/
  resultStrict : s.phase = .result → s.res.counter < s.res.length
  /-- R28 (4): the read index `ExecLength - ExecCounter` is a number. -/
  execBound : s.xbuf.counter ≤ s.xbuf.length
  /-- R12: 32768 execution bytes. -/
  execSize : s.xbuf.length ≤ execBufSize ∧ s.xbuf.wr ≤ execBufSize
  /-- R28 (4): Execution has a byte to serve. Only a controller-to-CPU command reaches it, and its result is unread. -/
  execPhase : s.phase = .execution → 1 ≤ s.xbuf.counter ∧ s.active.direction = .out ∧ s.res.counter < s.res.length
  /-- R67: in Command the result and execution cursors are at their begin-of-command values. -/
  beginPhase : s.phase = .command → s.res.counter = 0 ∧ s.res.length = s.active.resultCount ∧
    s.xbuf.wr = 0 ∧ s.xbuf.length = 0 ∧ s.xbuf.counter = 0
  /-- R94, R101: a stub is in Command only under `wedge`. -/
  stubPhase : s.phase = .command → s.active.kind = .stub → s.policy = .wedge
  /-- R50, R66: the latched flags are ones the active entry allows. -/
  flagsAllowed : illegalFlags s.active (commandByte s.flags.mt s.flags.mf s.flags.sk 0) = false
  /-- R67 to R71: in Command `P` holds what the accepted bytes say. -/
  parsed : s.phase = .command → s.p = parsedParameters s.active.layout s.accepted
  /-- R92: after SPECIFY's first byte its two fields are stored. -/
  specifyParsed : s.phase = .command → s.active.layout = .specify → s.comm.counter = 1 →
    s.times.srt = stepRateTime (SpecifyOperands.ofBytes (paramAt s.accepted 0) 0).srt ∧
    s.times.hut = headUnloadTime (SpecifyOperands.ofBytes (paramAt s.accepted 0) 0).hut
  /-- The execution buffer's memory is in canonical form, inside its 32768 addresses. -/
  memory : Memory.wf s.xbuf.mem ∧ ∀ x ∈ s.xbuf.mem, x.1 < execBufSize

/-- What a read command's completion leaves as it was: everything but the phase, the command flags and `P` (its operands), ST0 to
ST2, the result bytes, the execution buffer, and the drives, of which a claim speaks on its own. -/
structure ReadFrame (s t : State) : Prop where
  cmdIndex : t.cmdIndex = s.cmdIndex
  comm : t.comm = s.comm
  resCounter : t.res.counter = s.res.counter
  resLength : t.res.length = s.res.length
  times : t.times = s.times
  counters : t.counters = s.counters
  st3 : t.bank.st3 = s.bank.st3
  msr : t.bank.msr = s.bank.msr
  lastReceived : t.lastReceived = s.lastReceived
  lastToSend : t.lastToSend = s.lastToSend
  seek : t.seek = s.seek
  driveIndex : t.driveIndex = s.driveIndex
  policy : t.policy = s.policy
  dout : t.dout = s.dout
  inbox : t.inbox = s.inbox

/-- A phase change the table of R61 allows in one step. A parameterless command goes from Idle through Command to Result in the
write of its command byte (R73). `Reset` is not in this list. -/
def phaseChangeAllowed (a b : Phase) : Prop :=
  a = b ∨ (a = .idle ∧ (b = .command ∨ b = .result)) ∨ (a = .command ∧ (b = .execution ∨ b = .result ∨ b = .idle)) ∨
    (a = .execution ∧ b = .result) ∨ (a = .result ∧ b = .idle)

/-- `k` steps of the machine, stopping at the first fault or refusal (`Host.Core.run` of `Sys2Proof.core`, see `run_eq_core`). -/
def run (k : Nat) (s : State) : Host.Outcome State Fault Refusal :=
  match k with
  | 0 => .next s
  | k + 1 =>
    match step s with
    | .next t => run k t
    | .fault r => .fault r
    | .refused r => .refused r

/-- The number of data bytes of a list of sector records. -/
def totalData (l : List Sector) : Nat := (l.map (fun x => x.data.length)).sum

/-- The data bytes of a list of sector records, in order. -/
def allData (l : List Sector) : List Byte := (l.map (fun x => x.data)).flatten

/-- The bytes `data` stand at addresses 0, 1, ... of a memory and every other address reads as unlisted. -/
def Memory.holds (m : Memory) (data : List Byte) : Prop := ∀ k, m.read k = data.getD k unlistedByte

/-- The reset source's call (R4). -/
def BusEvent.isReset : BusEvent → Bool
  | .reset => true
  | _ => false

/-- The environment's call (R42). -/
def BusEvent.isEnvironment : BusEvent → Bool
  | .setDrive _ _ => true
  | _ => false

/-- `BusEvent.write .data` of each byte of a list. -/
def dataWrites (bs : List Byte) : List BusEvent := bs.map (fun b => .write .data b)

/-- `k` reads of the data register. -/
def dataReads (k : Nat) : List BusEvent := List.replicate k (.read .data)

end Sys2Proof.Machine
end

