-- ==== Sys2Proof/Certificates/Slice0/Obligations.lean ====
section
/-! DEFINITION. The statements for the provers, from the numbered rules of spec/. `R` numbers name those rules, and `log n` is
notes/assumptions/n.md. In every statement about `step` or `run` the agents' calls (R4) stand in `inbox`, the next one first, and the
byte a bus read returns stands in `dout`: that is the model's form of them (log 1, log 2), not a rule of the spec. -/

open Sys2Proof Sys2Proof.Machine

/-! ## Encoding -/

/-- A few commands, their bytes written out from R48, R51 to R54. -/
def Obligations.SpecBytesDecodeToTheirCommands : Prop :=
  decode [0b11100110, 0b00000101, 0x10, 0x01, 0x02, 0x03, 0x09, 0x2A, 0xFF] =
      .ok (.readData true true true ⟨⟨0, true, 1⟩, 0x10, 0x01, 0x02, 0x03, 0x09, 0x2A, 0xFF⟩, []) ∧
  decode [0b01001010, 0b00000010] = .ok (.readId true ⟨0, false, 2⟩, []) ∧
  decode [0b00000011, 0b10101111, 0b00000011] = .ok (.specify ⟨0xA, 0xF, 1, true⟩, []) ∧
  decode [0b00001111, 0b00000000, 0x05] = .ok (.seek ⟨0, false, 0⟩ 0x05, []) ∧
  decode [0b00001000] = .ok (.senseInterruptStatus, []) ∧
  decode [0b10000011] = .ok (.invalid true false false 0b00011, []) ∧
  decode [0b01001101, 0b00000001, 0x02, 0x09, 0x54, 0xE5] = .ok (.writeId true ⟨⟨0, false, 1⟩, 0x02, 0x09, 0x54, 0xE5⟩, [])

/-- R47, R50: decoding what the encoder writes for a well-formed command gives the command and the bytes after it. -/
def Obligations.DecodeOfEncodeGivesTheCommand : Prop :=
  ∀ (i : Instr) (rest : List Byte), i.wf = true → decode (encode i ++ rest) = .ok (i, rest)

/-- R47, R58: the bytes a decoded command was read from are its encoding, so no bit is dropped, and it is well-formed. -/
def Obligations.EncodeOfDecodeGivesTheBytes : Prop :=
  ∀ (bs rest : List Byte) (i : Instr), decode bs = .ok (i, rest) → encode i ++ rest = bs ∧ i.wf = true

/-- R58: every command byte decodes, given its parameter bytes, and to the entry the lookup selects. -/
def Obligations.EveryCommandByteDecodes : Prop :=
  ∀ (b : Byte) (ps : List Byte), (descriptor (selectIndex b)).paramCount ≤ ps.length →
    ∃ i, decode (b :: ps) = .ok (i, ps.drop (descriptor (selectIndex b)).paramCount) ∧ i.index = selectIndex b ∧ i.wf = true

/-- R50: Invalid where no entry has the low five bits as its opcode or a flag bit is set that the entry does not allow, else the
entry. -/
def Obligations.LookupByOpcodeAndFlags : Prop :=
  ∀ b : Byte,
    ((∀ i, (descriptor i).opcode ≠ some (b.extractLsb' 0 5)) → selectIndex b = 15) ∧
    ∀ i, (descriptor i).opcode = some (b.extractLsb' 0 5) →
      (((b.getLsbD 7 = true ∧ (descriptor i).allowMT = false) ∨ (b.getLsbD 6 = true ∧ (descriptor i).allowMF = false) ∨
          (b.getLsbD 5 = true ∧ (descriptor i).allowSK = false)) → selectIndex b = 15) ∧
      (¬((b.getLsbD 7 = true ∧ (descriptor i).allowMT = false) ∨ (b.getLsbD 6 = true ∧ (descriptor i).allowMF = false) ∨
          (b.getLsbD 5 = true ∧ (descriptor i).allowSK = false)) → selectIndex b = i)

/-- R51: a byte selects a row iff it agrees with the row's match under its mask, every other byte selects INVALID, and the
rows' opcodes, parameter counts, result counts, directions and kinds are the table's (the spec's own values, D3; log 12). -/
def Obligations.CommandTableMasksAndCounts : Prop :=
  (∀ b : Byte, ∀ rows : List (Fin 16 × Byte × Byte),
    rows = [(0, 0x1F, 0x06), (1, 0x1F, 0x0C), (2, 0x9F, 0x02), (3, 0xBF, 0x0A), (4, 0x3F, 0x05), (5, 0xBF, 0x0D),
      (6, 0x3F, 0x09), (7, 0x1F, 0x11), (8, 0x1F, 0x19), (9, 0x1F, 0x1D), (10, 0xFF, 0x03), (11, 0xFF, 0x0F), (12, 0xFF, 0x07),
      (13, 0xFF, 0x08), (14, 0xFF, 0x04)] →
    (∀ row ∈ rows, selectIndex b = row.1 ↔ b &&& row.2.1 = row.2.2) ∧
    ((∀ row ∈ rows, b &&& row.2.1 ≠ row.2.2) → selectIndex b = 15)) ∧
  (List.finRange 16).map (fun i => ((descriptor i).opcode, (descriptor i).paramCount, (descriptor i).resultCount,
      (descriptor i).direction, (descriptor i).kind)) =
    [(some 0x06, 8, 7, .out, .implemented), (some 0x0C, 8, 7, .out, .implemented), (some 0x02, 8, 7, .out, .implemented),
     (some 0x0A, 1, 7, .out, .implemented), (some 0x05, 8, 7, .inn, .stub), (some 0x0D, 5, 7, .inn, .stub),
     (some 0x09, 8, 7, .inn, .stub), (some 0x11, 8, 7, .inn, .stub), (some 0x19, 8, 7, .inn, .stub),
     (some 0x1D, 8, 7, .inn, .stub), (some 0x03, 2, 0, .out, .implemented), (some 0x0F, 2, 0, .out, .implemented),
     (some 0x07, 1, 0, .out, .implemented), (some 0x08, 0, 2, .out, .implemented), (some 0x04, 1, 1, .out, .implemented),
     (none, 0, 1, .out, .invalid)]

/-! ## The bus -/

/-- R63: a main-status read answers a byte computed from the phase and the active command's direction, stores it, and changes
nothing else. -/
def Obligations.MainStatusReadByPhase : Prop :=
  ∀ (s : State) (rest : List BusEvent), s.inbox = .read .msr :: rest →
    ∃ v : Byte,
      step s = .next { s with inbox := rest, bank := { s.bank with msr := v }, dout := v } ∧
      (s.phase = .idle → v = 0x80) ∧ (s.phase = .command → v = 0x90) ∧
      (s.phase = .execution → s.active.direction = .out → v = 0xF0) ∧
      (s.phase = .execution → s.active.direction = .inn → v = 0xB0) ∧ (s.phase = .result → v = 0xD0)

/-- R64: what a data-register read answers and changes in each phase. The premises on the cursors are those R64 says its phases
imply. -/
def Obligations.DataReadByPhase : Prop :=
  ∀ (s : State) (rest : List BusEvent), s.inbox = .read .data :: rest →
    (s.phase = .execution → s.active.direction = .out → 1 ≤ s.xbuf.counter → s.xbuf.counter ≤ s.xbuf.length →
      s.xbuf.length ≤ 32768 →
      step s = .next { s with inbox := rest, xbuf := { s.xbuf with counter := s.xbuf.counter - 1 },
                              phase := if s.xbuf.counter = 1 then .result else .execution,
                              lastToSend := s.xbuf.mem.read (s.xbuf.length - s.xbuf.counter),
                              dout := s.xbuf.mem.read (s.xbuf.length - s.xbuf.counter) }) ∧
    (s.phase = .result → s.res.counter < 7 →
      step s = .next { s with inbox := rest, res := { s.res with counter := s.res.counter + 1 },
                              phase := if s.res.counter + 1 = s.res.length then .idle else .result,
                              lastToSend := s.res.bytes.toList.getD s.res.counter 0,
                              dout := s.res.bytes.toList.getD s.res.counter 0 }) ∧
    ((s.phase = .idle ∨ s.phase = .command ∨ (s.phase = .execution ∧ s.active.direction = .inn)) →
      step s = .next { s with inbox := rest, lastToSend := 0xFF, dout := 0xFF })

/-- R37, R65: a write to the main status register in any phase, and a data write in Result or in Execution of a
controller-to-CPU command, change nothing. -/
def Obligations.IgnoredWritesChangeNothing : Prop :=
  ∀ (s : State) (v : Byte) (rest : List BusEvent),
    (s.inbox = .write .msr v :: rest → step s = .next { s with inbox := rest }) ∧
    (s.inbox = .write .data v :: rest → (s.phase = .result ∨ (s.phase = .execution ∧ s.active.direction = .out)) →
      step s = .next { s with inbox := rest })

/-- R65, R66, R67, R101: the command byte of a command with parameters latches the flags and the entry and begins the command; a
stub's does so under the policy `wedge` (R101, the model's log 4). -/
def Obligations.CommandByteBeginsTheCommand : Prop :=
  ∀ (s : State) (b : Byte) (rest : List BusEvent), s.inbox = .write .data b :: rest → s.phase = .idle →
    ((descriptor (selectIndex b)).kind ≠ .stub ∨ s.policy = .wedge) → 1 ≤ (descriptor (selectIndex b)).paramCount →
    step s = .next { s with inbox := rest, lastReceived := b, phase := .command, cmdIndex := selectIndex b,
                            flags := ⟨b.getLsbD 7, b.getLsbD 6, b.getLsbD 5⟩,
                            comm := { s.comm with counter := 0 },
                            res := { s.res with counter := 0, length := (descriptor (selectIndex b)).resultCount },
                            xbuf := { s.xbuf with wr := 0, length := 0, counter := 0 },
                            p := ⟨0, false, 0, 0, 0, 0, 0, 0, 0, 0⟩ }

/-- R65, R68: a parameter byte of the standard layout, before the last one, is latched, stored, counted and put into its field
of `P`; position 0 also sets `DriveIndex`. -/
def Obligations.StandardParameterByteIsStored : Prop :=
  ∀ (s : State) (b : Byte) (rest : List BusEvent), s.inbox = .write .data b :: rest → s.phase = .command →
    s.active.layout = .standard → s.active.kind = .implemented → s.comm.counter < 7 →
    ∃ t, step s = .next t ∧
      t.p = (match s.comm.counter with
        | 0 => { s.p with us := b.extractLsb' 0 2, side := b.getLsbD 2 }
        | 1 => { s.p with c := b }
        | 2 => { s.p with h := b }
        | 3 => { s.p with r := b }
        | 4 => { s.p with n := b }
        | 5 => { s.p with eot := b }
        | _ => { s.p with gpl := b }) ∧
      t = { s with inbox := rest, lastReceived := b, p := t.p,
                   comm := { bytes := s.comm.bytes.setIfInBounds s.comm.counter b, counter := s.comm.counter + 1 },
                   driveIndex := if s.comm.counter = 0 then b.extractLsb' 0 2 else s.driveIndex }

/-- R75: a tick takes each countdown counter above 0 down by 1, leaves a counter at 0, and changes nothing else. -/
def Obligations.TickCountsDown : Prop :=
  ∀ (s : State) (rest : List BusEvent), s.inbox = .tick :: rest →
    ∃ t, step s = .next t ∧ t = { s with inbox := rest, counters := t.counters } ∧
      (∀ f : Countdown → Nat, (f = Countdown.srt ∨ f = Countdown.hut ∨ f = Countdown.hlt ∨ f = Countdown.index) →
        (0 < f s.counters → f t.counters + 1 = f s.counters) ∧ (f s.counters = 0 → f t.counters = 0))

/-- R121, R29: a reset in any state puts every element of the controller at its reset value and leaves the drives alone. It also
leaves the parameter `policy`, the last byte on `dout` and the calls still to come: the model's own fields (log 17). -/
def Obligations.ResetClearsTheControllerOnly : Prop :=
  ∀ (s : State) (rest : List BusEvent), s.inbox = .reset :: rest →
    ∃ t, step s = .next t ∧ t.drives = s.drives ∧ t.policy = s.policy ∧ t.dout = s.dout ∧ t.inbox = rest ∧
      t.phase = .idle ∧ t.cmdIndex = 15 ∧
      t.comm = ⟨Vector.replicate 9 0, 0⟩ ∧ t.res = ⟨Vector.replicate 7 0, 0, 0⟩ ∧
      (∀ k, t.xbuf.mem.read k = 0) ∧ t.xbuf.wr = 0 ∧ t.xbuf.length = 0 ∧ t.xbuf.counter = 0 ∧
      t.flags = ⟨false, false, false⟩ ∧ t.p = ⟨0, false, 0, 0, 0, 0, 0, 0, 0, 0⟩ ∧ t.times = ⟨0, 0, 0, false⟩ ∧
      t.counters = ⟨0, 0, 0, 0⟩ ∧ t.bank = ⟨0, 0, 0, 0, 0x80⟩ ∧ t.lastReceived = 0 ∧ t.lastToSend = 0 ∧
      (∀ d, t.seekState d = .seekIdle) ∧ t.driveIndex = 0

/-- R29: the machine right after reset. The drive records are the default of the open parameter `DriveInit` (R121; log 3). -/
def Obligations.ResetStateIsTheTable : Prop :=
  State.reset.phase = .idle ∧ State.reset.cmdIndex = 15 ∧
  State.reset.comm = ⟨Vector.replicate 9 0, 0⟩ ∧ State.reset.res = ⟨Vector.replicate 7 0, 0, 0⟩ ∧
  (∀ k, State.reset.xbuf.mem.read k = 0) ∧ State.reset.xbuf.wr = 0 ∧ State.reset.xbuf.length = 0 ∧
  State.reset.xbuf.counter = 0 ∧ State.reset.flags = ⟨false, false, false⟩ ∧
  State.reset.p = ⟨0, false, 0, 0, 0, 0, 0, 0, 0, 0⟩ ∧ State.reset.times = ⟨0, 0, 0, false⟩ ∧
  State.reset.counters = ⟨0, 0, 0, 0⟩ ∧ State.reset.bank = ⟨0, 0, 0, 0, 0x80⟩ ∧ State.reset.lastReceived = 0 ∧
  State.reset.lastToSend = 0 ∧ (∀ d, State.reset.seekState d = .seekIdle) ∧ State.reset.driveIndex = 0 ∧
  (∀ d, State.reset.drive d = ⟨false, false, 0, 0, none⟩)

/-- R42: the environment's call replaces one unit's record and nothing else (the model's form of it: notes/assumptions/14.md). -/
def Obligations.EnvironmentReplacesOneRecord : Prop :=
  ∀ (s : State) (d : BitVec 2) (r : DriveRecord) (rest : List BusEvent), s.inbox = .setDrive d r :: rest →
    ∃ t, step s = .next t ∧ t = { s with inbox := rest, drives := t.drives } ∧ t.drive d = r ∧
      ∀ e, e ≠ d → t.drive e = s.drive e

/-- R4: with no call pending nothing changes (the model's convention for a queue that is empty: notes/assumptions/1.md). -/
def Obligations.NoCallNoChange : Prop := ∀ s : State, s.inbox = [] → step s = .next s

/-! ## A step runs the decoded command -/

/-- R65, R72: the write of the last parameter byte is the meaning of the command its bytes decode to, in the state that has
accepted the byte. `cmd` stands for the command byte accepted before. -/
def Obligations.StepRunsTheDecodedCommand : Prop :=
  ∀ (s : State) (cmd b : Byte) (rest : List BusEvent) (i : Instr), s.inbox = .write .data b :: rest → s.phase = .command →
    s.cmdIndex = selectIndex cmd → s.flags = ⟨mtOf cmd, mfOf cmd, skOf cmd⟩ → s.active.kind ≠ .stub →
    s.comm.counter + 1 = s.active.paramCount → decode (cmd :: (s.accepted ++ [b])) = .ok (i, []) →
    step s = exec i (({ s with inbox := rest } : State).acceptParam b)

/-- R73: a parameterless command completes in the write of its command byte, which is the meaning of the command it decodes to;
Command is never observed. -/
def Obligations.ParameterlessCommandCompletesInline : Prop :=
  ∀ (s : State) (b : Byte) (rest : List BusEvent) (i : Instr), s.inbox = .write .data b :: rest → s.phase = .idle →
    decode [b] = .ok (i, []) → (i.index = 13 ∨ i.index = 15) ∧
    ∃ t, step s = .next t ∧ exec i (({ s with inbox := rest } : State).acceptCommandByte b) = .next t ∧ t.phase = .result

/-- R65, R94: the command byte of a stub command runs the stub at once, whatever parameter bytes it would be followed by. -/
def Obligations.StubRunsAtItsCommandByte : Prop :=
  ∀ (s : State) (b : Byte) (ps : List Byte) (rest : List BusEvent) (i : Instr), s.inbox = .write .data b :: rest →
    s.phase = .idle → decode (b :: ps) = .ok (i, []) → (descriptor i.index).kind = .stub →
    step s = exec i (({ s with inbox := rest } : State).acceptCommandByte b)

/-- R47, R65 to R73: the whole dialogue of a command. From Idle, with the command's bytes as the next calls, as many steps as it
has bytes are its meaning in the state that has accepted them. -/
def Obligations.WholeCommandRunsToItsMeaning : Prop :=
  ∀ (i : Instr) (s : State) (rest : List BusEvent), i.wf = true → (descriptor i.index).kind ≠ .stub → s.phase = .idle →
    s.inbox = dataWrites (encode i) ++ rest →
    run (encode i).length s = exec i (({ s with inbox := rest } : State).acceptBytes (encode i))

/-- R65 to R71: what accepting a command's bytes from any state leaves: the entry, the flags, the parameter buffer, `P`, the cursors
of a begun command, and nothing changed in the status bank, the results, the execution bytes, the seek states and the drives. -/
def Obligations.AcceptedBytesAreTheOperands : Prop :=
  ∀ (i : Instr) (s : State), i.wf = true →
    ∃ t, s.acceptBytes (encode i) = t ∧ t.phase = .command ∧ t.cmdIndex = i.index ∧
      t.flags = ⟨mtOf i.head, mfOf i.head, skOf i.head⟩ ∧ t.comm.counter = (descriptor i.index).paramCount ∧
      t.accepted = i.params ∧ (∀ k, i.params.length ≤ k → t.comm.bytes[k]? = s.comm.bytes[k]?) ∧
      t.p = parsedParameters (descriptor i.index).layout i.params ∧
      t.res = { s.res with counter := 0, length := (descriptor i.index).resultCount } ∧
      t.xbuf = { s.xbuf with wr := 0, length := 0, counter := 0 } ∧
      t.bank = s.bank ∧ t.seek = s.seek ∧ t.drives = s.drives ∧ t.policy = s.policy ∧ t.inbox = s.inbox ∧
      t.lastToSend = s.lastToSend ∧ t.dout = s.dout ∧ t.lastReceived = (encode i).getLast?.getD 0 ∧
      ((descriptor i.index).layout ≠ .specify → t.times = s.times ∧ t.counters = s.counters) ∧
      (((descriptor i.index).layout = .specify ∨ (descriptor i.index).layout = .empty) → t.driveIndex = s.driveIndex) ∧
      (¬((descriptor i.index).layout = .specify ∨ (descriptor i.index).layout = .empty) → t.driveIndex = t.p.us)

/-! ## Invariants and whole-machine rules -/

/-- R28: the reset state meets the invariant. -/
def Obligations.ResetMeetsTheInvariant : Prop := Inv State.reset

/-- R28: every step keeps the invariant, from every state that meets it. -/
def Obligations.EveryStepKeepsTheInvariant : Prop :=
  ∀ s t : State, Inv s → step s = .next t → Inv t

/-- R102, R125: under the invariant no step faults, and a step is refused only as a stub command under `STUB_POLICY = refuse` or as
a read that would overflow the execution buffer. -/
def Obligations.StepsNeverFaultAndRefuseOnlyTwoWays : Prop :=
  ∀ s : State, Inv s →
    (∃ t, step s = .next t) ∨ (step s = .refused .stubCommand ∧ s.policy = .refuse ∧
      ∃ b rest, s.inbox = .write .data b :: rest ∧ s.phase = .idle ∧ (descriptor (selectIndex b)).kind = .stub) ∨
    (step s = .refused .execBufferOverflow ∧ s.phase = .command ∧ s.cmdIndex.val ≤ 2)

/-- R61, R72, R76 (a): the phase each implemented command completes in; none stays in Command. -/
def Obligations.CompletionPhaseByCommand : Prop :=
  ∀ (i : Instr) (s t : State), exec i s = .next t →
    match i with
    | .readData .. => t.phase = .execution ∨ t.phase = .result
    | .readDeletedData .. => t.phase = .execution ∨ t.phase = .result
    | .readDiagnostic .. => t.phase = .execution ∨ t.phase = .result
    | .readId .. => t.phase = .result
    | .specify .. => t.phase = .idle
    | .seek .. => t.phase = .idle
    | .recalibrate .. => t.phase = .idle
    | .senseInterruptStatus => t.phase = .result
    | .senseDriveStatus .. => t.phase = .result
    | .invalid .. => t.phase = .result
    | .writeData .. => t.phase = s.phase
    | .writeId .. => t.phase = s.phase
    | .writeDeletedData .. => t.phase = s.phase
    | .scanEqual .. => t.phase = s.phase
    | .scanLowOrEqual .. => t.phase = s.phase
    | .scanHighOrEqual .. => t.phase = s.phase

/-- R61: a step other than a reset changes the phase only as the table of R61 allows. -/
def Obligations.PhaseChangesFollowTheTable : Prop :=
  ∀ (s t : State) (e : BusEvent) (rest : List BusEvent), s.inbox = e :: rest → e.isReset = false → step s = .next t →
    phaseChangeAllowed s.phase t.phase

/-- R64, R76 (b): the result is served in ascending order and the phase returns to Idle on the final read, never before. -/
def Obligations.ResultDrainEndsOnTheFinalRead : Prop :=
  ∀ (s : State) (rest : List BusEvent) (k : Nat), s.phase = .result → s.res.counter < s.res.length → s.res.length ≤ 7 →
    k ≤ s.res.length - s.res.counter → s.inbox = dataReads k ++ rest →
    ∃ t, run k s = .next t ∧ t.inbox = rest ∧ t.res.counter = s.res.counter + k ∧
      (t.phase = .idle ↔ k = s.res.length - s.res.counter) ∧ (t.phase = .result ↔ k < s.res.length - s.res.counter) ∧
      (0 < k → some t.dout = s.res.bytes[s.res.counter + k - 1]?)

/-- R38, R64, R76 (c): the execution bytes are served front to back and the phase goes to Result on the final read, never before. -/
def Obligations.ExecutionDrainServesTheBytesInOrder : Prop :=
  ∀ (s : State) (rest : List BusEvent) (k : Nat), s.phase = .execution → s.active.direction = .out → 0 < s.xbuf.counter →
    s.xbuf.counter ≤ s.xbuf.length → s.xbuf.length ≤ 32768 → k ≤ s.xbuf.counter → s.inbox = dataReads k ++ rest →
    ∃ t, run k s = .next t ∧ t.inbox = rest ∧ t.xbuf.counter + k = s.xbuf.counter ∧ t.xbuf.mem = s.xbuf.mem ∧
      t.xbuf.length = s.xbuf.length ∧ t.res = s.res ∧
      (t.phase = .result ↔ k = s.xbuf.counter) ∧ (t.phase = .execution ↔ k < s.xbuf.counter) ∧
      (0 < k → t.dout = s.xbuf.mem.read (s.xbuf.length - s.xbuf.counter + k - 1))

/-- R13, R66, R76 (d): only a reset or a data write in Idle changes the active command or the latched flags. -/
def Obligations.OnlyAnIdleWriteSelectsACommand : Prop :=
  ∀ (s t : State) (e : BusEvent) (rest : List BusEvent), s.inbox = e :: rest → step s = .next t →
    (t.cmdIndex ≠ s.cmdIndex ∨ t.flags ≠ s.flags) → e.isReset = true ∨ (s.phase = .idle ∧ ∃ b, e = .write .data b)

/-- R87, R114: a seek state changes only by a reset or by the data write that completes SEEK, RECALIBRATE or
SENSE_INTERRUPT_STATUS. -/
def Obligations.SeekStateHasThreeWriters : Prop :=
  ∀ (s t : State) (e : BusEvent) (rest : List BusEvent), s.inbox = e :: rest → step s = .next t → t.seek ≠ s.seek →
    e.isReset = true ∨ ((∃ b, e = .write .data b) ∧ (t.cmdIndex = 11 ∨ t.cmdIndex = 12 ∨ t.cmdIndex = 13))

/-- R26, R40: the controller writes two fields of a drive record only, the track (SEEK, RECALIBRATE) and the sector index (READ_ID). -/
def Obligations.ControllerWritesTrackAndSectorIndexOnly : Prop :=
  ∀ (s t : State) (e : BusEvent) (rest : List BusEvent), s.inbox = e :: rest → e.isEnvironment = false → step s = .next t →
    ∀ d, (t.drive d).ready = (s.drive d).ready ∧ (t.drive d).writeProtect = (s.drive d).writeProtect ∧
      (t.drive d).disk = (s.drive d).disk ∧
      ((t.drive d).track ≠ (s.drive d).track → t.cmdIndex = 11 ∨ t.cmdIndex = 12) ∧
      ((t.drive d).sectorIndex ≠ (s.drive d).sectorIndex → t.cmdIndex = 3)

/-- R15, R25: the Specify fields are written only by a reset or SPECIFY, ST3 only by a reset or SENSE_DRIVE_STATUS. -/
def Obligations.SpecifyFieldsAndST3HaveOneWriter : Prop :=
  ∀ (s t : State) (e : BusEvent) (rest : List BusEvent), s.inbox = e :: rest → e.isReset = false → step s = .next t →
    (t.times ≠ s.times → t.cmdIndex = 10) ∧ (t.bank.st3 ≠ s.bank.st3 → t.cmdIndex = 14)

/-! ## SPECIFY and INVALID -/

/-- R92, R54: SPECIFY's three bytes from Idle. The fields and the counters are loaded with the conversions, the controller is Idle
with no result, and no status register, seek state, drive, execution byte or `DriveIndex` changes. -/
def Obligations.SpecifyLoadsTimesAndCounters : Prop :=
  ∀ (s : State) (b0 b1 : Byte) (rest : List BusEvent), s.phase = .idle →
    s.inbox = dataWrites [0x03, b0, b1] ++ rest →
    ∃ t, run 3 s = .next t ∧ t.phase = .idle ∧ t.res.length = 0 ∧ t.inbox = rest ∧
      t.times = { srt := 16 - (b0.extractLsb' 4 4).toNat,
                  hut := if b0.extractLsb' 0 4 = 0 then 255 else (b0.extractLsb' 0 4).toNat * 16,
                  hlt := if b1.extractLsb' 1 7 = 0 then 255 else (b1.extractLsb' 1 7).toNat * 2,
                  nd := b1.getLsbD 0 } ∧
      t.counters = { s.counters with srt := t.times.srt, hut := t.times.hut, hlt := t.times.hlt } ∧
      t.bank = s.bank ∧ t.seek = s.seek ∧ t.drives = s.drives ∧ t.driveIndex = s.driveIndex ∧ t.xbuf.mem = s.xbuf.mem ∧
      t.res.bytes = s.res.bytes ∧ t.p = CommandParameters.zero

/-- R92: the completion of SPECIFY in any state. R92's `Complete_SPECIFY` sets the phase only, and its parser has set the fields and
the counters before it; that the completion sets the four fields from the operands and leaves the countdown counters is the model's
form (log 6). The conversions of nonzero codes are D9 (log 12). See `SpecifyLoadsTimesAndCounters` for the whole dialogue. -/
def Obligations.SpecifyCompletes : Prop :=
  ∀ (a : SpecifyOperands) (s : State),
    exec (.specify a) s = .next { s with
      phase := .idle,
      times := { srt := 16 - a.srt.toNat, hut := if a.hut = 0 then 255 else a.hut.toNat * 16,
                 hlt := if a.hlt = 0 then 255 else a.hlt.toNat * 2, nd := a.nd } }

/-- R93: INVALID in any state: ST0 is 0x80, the one result byte is 0x80, Result; the offending byte's flags are latched and nothing
else changes. -/
def Obligations.InvalidReportsUnknownCommand : Prop :=
  ∀ (mt mf sk : Bool) (op : BitVec 5) (s : State),
    exec (.invalid mt mf sk op) s = .next { s with
      phase := .result, flags := ⟨mt, mf, sk⟩,
      bank := { s.bank with st0 := 0x80 }, res := { s.res with bytes := s.res.bytes.set 0 0x80, length := 1 } }

/-! ## The seek family -/

/-- R88: SEEK in any state sets the unit's track to the new cylinder number and latches `Seeking`; Idle; every other unit, the
status bank, the results and all else are unchanged. For any unit, ready or not: R88's decision D24. `P` holds the operands: the
model's form (log 6), with R67 and R70. -/
def Obligations.SeekMovesTheHeadAndLatches : Prop :=
  ∀ (hu : HeadUnit) (ncn : Byte) (s : State),
    ∃ t, exec (.seek hu ncn) s = .next t ∧
      t = { s with phase := .idle, p := ⟨hu.us, hu.hd, ncn, 0, 0, 0, 0, 0, 0, 0⟩, drives := t.drives, seek := t.seek } ∧
      t.drive hu.us = { s.drive hu.us with track := ncn.toNat } ∧ t.seekState hu.us = .seeking ∧
      ∀ d, d ≠ hu.us → t.drive d = s.drive d ∧ t.seekState d = s.seekState d

/-- R89: RECALIBRATE in any state sets the unit's track to 0 and latches `Recalibrating`; afterwards the unit is at track zero. For
any unit, ready or not: R88's decision D24. `P` holds the operands: the model's form (log 6), with R67's D10 and R71. -/
def Obligations.RecalibrateGoesToTrackZero : Prop :=
  ∀ (hu : HeadUnit) (s : State),
    ∃ t, exec (.recalibrate hu) s = .next t ∧
      t = { s with phase := .idle, p := ⟨hu.us, hu.hd, 0, 0, 0, 0, 0, 0, 0, 0⟩, drives := t.drives, seek := t.seek } ∧
      t.drive hu.us = { s.drive hu.us with track := 0 } ∧ t.seekState hu.us = .recalibrating ∧ t.isAtTrackZero hu.us = true ∧
      ∀ d, d ≠ hu.us → t.drive d = s.drive d ∧ t.seekState d = s.seekState d

/-- R90, R87: the three answers of SENSE_INTERRUPT_STATUS about the unit `DriveIndex` names, and what it leaves alone. -/
def Obligations.SenseInterruptAnswersBySeekState : Prop :=
  ∀ s : State,
    ∃ t, exec .senseInterruptStatus s = .next t ∧
      t = { s with phase := .result, bank := { s.bank with st0 := t.bank.st0 }, seek := t.seek,
                   res := { s.res with bytes := t.res.bytes, length := t.res.length } } ∧
      (∀ d, d ≠ s.driveIndex → t.seekState d = s.seekState d) ∧
      ((s.seekState s.driveIndex = .seeking ∨ s.seekState s.driveIndex = .recalibrating) →
        t.bank.st0 = 0x20 ∧ t.res.length = 2 ∧ t.seekState s.driveIndex = .acknowledged ∧
        t.res.bytes = (s.res.bytes.set 0 0x20).set 1 (BitVec.ofNat 8 (s.drive s.driveIndex).track)) ∧
      (s.seekState s.driveIndex = .acknowledged →
        t.bank.st0 = 0xC0 ∧ t.res.length = 1 ∧ t.seekState s.driveIndex = .seekIdle ∧ t.res.bytes = s.res.bytes.set 0 0xC0) ∧
      (s.seekState s.driveIndex = .seekIdle →
        t.bank.st0 = 0x80 ∧ t.res.length = 1 ∧ t.seekState s.driveIndex = .seekIdle ∧ t.res.bytes = s.res.bytes.set 0 0x80)

/-- R90, R87: three senses in a row after a seek or recalibrate, with the result of each drained: 0x20 and the track, then 0xC0,
then 0x80, each ending in Idle. -/
def Obligations.ThreeSensesAfterASeek : Prop :=
  ∀ (s : State) (rest : List BusEvent), s.phase = .idle →
    (s.seekState s.driveIndex = .seeking ∨ s.seekState s.driveIndex = .recalibrating) →
    s.inbox = dataWrites [0x08] ++ dataReads 2 ++ dataWrites [0x08] ++ dataReads 1 ++ dataWrites [0x08] ++ dataReads 1 ++ rest →
    ∃ t2 t3 t5 t7, run 2 s = .next t2 ∧ t2.dout = 0x20 ∧ run 3 s = .next t3 ∧
      t3.dout = BitVec.ofNat 8 (s.currentTrack s.driveIndex) ∧ t3.phase = .idle ∧ run 5 s = .next t5 ∧ t5.dout = 0xC0 ∧
      t5.phase = .idle ∧ run 7 s = .next t7 ∧ t7.dout = 0x80 ∧ t7.phase = .idle ∧ t7.inbox = rest ∧
      t7.seekState s.driveIndex = .seekIdle ∧ t7.drives = s.drives

/-- R91, R110: SENSE_DRIVE_STATUS in any state: ST3 is the fault bit alone for a unit other than 0 (D26), else composed from unit,
head, track-zero, ready and write-protect; it is the one result byte. A unit without a disk reads as not ready by R26, in the
accessor (log 10). `P` is set to the operand: the model's form (log 6), with R67's D10 and R71. Nothing else changes. -/
def Obligations.SenseDriveStatusComposesST3 : Prop :=
  ∀ (hu : HeadUnit) (s : State),
    ∃ v : Byte,
      exec (.senseDriveStatus hu) s = .next { s with
        phase := .result, p := ⟨hu.us, hu.hd, 0, 0, 0, 0, 0, 0, 0, 0⟩,
        bank := { s.bank with st3 := v }, res := { s.res with bytes := s.res.bytes.set 0 v, length := 1 } } ∧
      (hu.us ≠ 0 → v = 0x80) ∧
      (hu.us = 0 → v.getLsbD 7 = false ∧ v.getLsbD 6 = (s.drive 0).writeProtect ∧
        v.getLsbD 5 = ((s.drive 0).ready && (s.drive 0).disk.isSome) ∧ v.getLsbD 4 = decide ((s.drive 0).track = 0) ∧
        v.getLsbD 3 = false ∧ v.getLsbD 2 = hu.hd ∧ v.extractLsb' 0 2 = (0 : BitVec 2))

/-! ## The read family -/

/-- R80: the size rule. DTL is forced to 0xFF for a nonzero size code and kept for size code 0; the sector size and the capacity
ceilings the rule gives (the two it leaves open are free values, notes/assumptions/11.md, and not stated). -/
def Obligations.SizeRule : Prop :=
  (∀ p : CommandParameters, (p.n ≠ 0 → p.computeSizes = { p with dtl := 0xFF }) ∧ (p.n = 0 → p.computeSizes = p) ∧
    (p.n = 0 → sectorSize p = p.dtl.toNat) ∧ (p.n ≠ 0 → sectorSize p = 128 * 2 ^ p.n.toNat)) ∧
  transferCap 0 false = 3328 ∧ transferCap 1 false = 3840 ∧ transferCap 1 true = 6656 ∧ transferCap 2 false = 4096 ∧
  transferCap 2 true = 7680 ∧ transferCap 3 false = 4096 ∧ transferCap 3 true = 8192

/-- R104, R111, R78, R86: a read command for a unit that is not ready: ST0 is 0x48, ST1 and ST2 are 0, the result echoes the
requested CHRN (zeros for READ_ID), there are no execution bytes and the phase is Result. `P` and the flags (for the first three see
`ReadCommandsFrame`) are set to the operands: the model's form (log 6), with R67's D10. The emptied execution buffer of the first
three is R78's, with D33, as an empty list (log 5); 0x48 and the byte order rest on D6 and D8 (log 12). Nothing else changes. -/
def Obligations.NotReadyShortCircuits : Prop :=
  (∀ (mt mf sk : Bool) (a : StdOperands) (s : State), s.isReady a.hu.us = false →
    ∀ i ∈ [Instr.readData mt mf sk a, .readDeletedData mt mf sk a, .readDiagnostic mf sk a],
    ∃ t : State, exec i s = .next t ∧
      t = { s with phase := .result, p := stdParameters a, flags := t.flags,
                   bank := { s.bank with st0 := 0x48, st1 := 0, st2 := 0 }, xbuf := ⟨[], 0, 0, 0⟩,
                   res := { s.res with bytes := #v[0x48, 0, 0, a.c, a.h, a.r, a.n] } }) ∧
  (∀ (mf : Bool) (hu : HeadUnit) (s : State), s.isReady hu.us = false →
    exec (.readId mf hu) s = .next { s with
      phase := .result, p := headUnitParameters hu, flags := { s.flags with mf := mf },
      bank := { s.bank with st0 := 0x48, st1 := 0, st2 := 0 }, xbuf := { s.xbuf with length := 0, counter := 0 },
      res := { s.res with bytes := #v[0x48, 0, 0, 0, 0, 0, 0] } })

/-- R105, R111, R86: a missing or empty track under the head of a ready unit gives the status bytes of NotReady. The emptied
execution buffer is R78's, with D33 (log 5); 0x48 and the byte order rest on D6 and D8 (log 12). -/
def Obligations.TrackNotFoundShortCircuits : Prop :=
  (∀ (mt mf sk : Bool) (a : StdOperands) (s : State), s.isReady a.hu.us = true → s.trackUnderHead a.hu.us = none →
    ∀ i ∈ [Instr.readData mt mf sk a, .readDeletedData mt mf sk a, .readDiagnostic mf sk a],
    ∃ t, exec i s = .next t ∧ t.phase = .result ∧ t.res.bytes = #v[0x48, 0, 0, a.c, a.h, a.r, a.n] ∧
      t.bank = { s.bank with st0 := 0x48, st1 := 0, st2 := 0 } ∧ t.xbuf = ⟨[], 0, 0, 0⟩ ∧ t.drives = s.drives ∧
      ReadFrame s t) ∧
  (∀ (mf : Bool) (hu : HeadUnit) (s : State), s.isReady hu.us = true → s.trackUnderHead hu.us = none →
    ∃ t, exec (.readId mf hu) s = .next t ∧ t.phase = .result ∧ t.res.bytes = #v[0x48, 0, 0, 0, 0, 0, 0] ∧
      t.bank = { s.bank with st0 := 0x48, st1 := 0, st2 := 0 } ∧ t.xbuf = { s.xbuf with length := 0, counter := 0 } ∧
      t.drives = s.drives ∧ ReadFrame s t)

/-- R83, R84, R78, R81: READ_DATA (`wantDeleted` false) and READ_DELETED_DATA (true) of a ready unit with a track under its head are
the sector loop in the state R78's preamble prepares: ST0 to ST2 cleared (D28), the execution buffer zero with its write cursor 0
(D33; an empty list, log 5), DTL by R80. The loop may make 255 passes after its first, the 256 of R81 (log 8); `P` and the flags
are the operands, the model's form (log 6). -/
def Obligations.ReadCommandIsTheSectorLoop : Prop :=
  ∀ (wantDeleted mt mf sk : Bool) (a : StdOperands) (s : State) (tr : Track),
    s.isReady a.hu.us = true → s.trackUnderHead a.hu.us = some tr →
    exec (if wantDeleted then .readDeletedData mt mf sk a else .readData mt mf sk a) s =
      ({ s with flags := ⟨mt, mf, sk⟩, p := { stdParameters a with dtl := if a.n = 0 then a.dtl else 0xFF },
                bank := { s.bank with st0 := 0, st1 := 0, st2 := 0 },
                xbuf := { s.xbuf with mem := [], wr := 0 } } : State).readLoop wantDeleted tr 255

/-- R106, R111: an id no record of the track has ends the command, from any pass of the sector loop and, where it is the first id, of
READ_DATA and READ_DELETED_DATA as a whole: the abnormal-termination and no-data bits are ORed in, the result holds the id not found
and the cylinder unchanged, no execution byte is served, and the bytes copied before stay (D19). In the second clause `P` and the
flags are the operands, the model's form (log 6), and the empty list is R78's zero fill (D33, log 5). -/
def Obligations.SectorNotFoundShortCircuits : Prop :=
  (∀ (wantDeleted : Bool) (t : Track) (passes : Nat) (s : State), (∀ x ∈ t.sectors, x.r ≠ s.p.r) →
    s.readLoop wantDeleted t passes = .next { s with
      phase := .result,
      bank := { s.bank with st0 := s.bank.st0 ||| 0x40, st1 := s.bank.st1 ||| 0x04 },
      xbuf := { s.xbuf with length := 0, counter := 0 },
      res := { s.res with bytes := #v[s.bank.st0 ||| 0x40, s.bank.st1 ||| 0x04, s.bank.st2, s.p.c, s.p.h, s.p.r, s.p.n] } }) ∧
  (∀ (wantDeleted mt mf sk : Bool) (a : StdOperands) (s : State) (tr : Track), s.isReady a.hu.us = true →
    s.trackUnderHead a.hu.us = some tr → (∀ x ∈ tr.sectors, x.r ≠ a.r) →
    exec (if wantDeleted then .readDeletedData mt mf sk a else .readData mt mf sk a) s = .next { s with
      phase := .result, flags := ⟨mt, mf, sk⟩, p := { stdParameters a with dtl := if a.n = 0 then a.dtl else 0xFF },
      bank := { s.bank with st0 := 0x40, st1 := 0x04, st2 := 0 }, xbuf := ⟨[], 0, 0, 0⟩,
      res := { s.res with bytes := #v[0x40, 0x04, 0, a.c, a.h, a.r, a.n] } })

/-- R81, R82, R107, R108, R128 for a read that ends at its first sector, copied and not skipped: the sector has the end-of-track id,
or it raises DataError (`bad`) or ControlMark (`control`), which end the loop whatever its id. Its bytes are copied and served
(Result where it has none), its flags propagated with EN masked off, the two conditions reported, EN and the advance given by its
place in the table, `P.EOT` clamped to its id for ControlMark, DTL by R80. `P`'s other fields are the operands, the model's form
(log 6). READ_DATA has `wantDeleted` false, READ_DELETED_DATA true. -/
def Obligations.OneSectorReadCompletes : Prop :=
  ∀ (wantDeleted mt mf sk : Bool) (a : StdOperands) (s : State) (tr : Track) (pre post : List Sector) (x : Sector)
    (bad control : Bool),
    s.isReady a.hu.us = true → s.trackUnderHead a.hu.us = some tr → tr.sectors = pre ++ x :: post → (∀ y ∈ pre, y.r ≠ a.r) →
    x.r = a.r → x.data.length ≤ 32768 →
    bad = (x.st1.getLsbD 5 || x.st2.getLsbD 5) → control = (!sk && (x.st2.getLsbD 6 != wantDeleted)) →
    (a.eot = a.r ∨ bad = true ∨ control = true) → (sk = true → x.st2.getLsbD 6 = wantDeleted) →
    ∃ t, exec (if wantDeleted then .readDeletedData mt mf sk a else .readData mt mf sk a) s = .next t ∧
      t.phase = (if x.data = [] then .result else .execution) ∧ t.xbuf.length = x.data.length ∧
      t.xbuf.counter = x.data.length ∧ t.xbuf.mem.holds x.data ∧
      t.bank = { s.bank with st0 := if bad || control then 0x40 else 0x00,
                             st1 := (x.st1 &&& 0x7F) ||| (if post = [] then 0x80 else 0x00),
                             st2 := x.st2 ||| (if control then 0x40 else 0x00) } ∧
      t.p = { stdParameters a with c := if post = [] then a.c + 1 else a.c, r := if post = [] then 1 else a.r + 1,
                                   dtl := if a.n = 0 then a.dtl else 0xFF, eot := if control then a.r else a.eot } ∧
      t.res.bytes = #v[t.bank.st0, t.bank.st1, t.bank.st2, t.p.c, a.h, t.p.r, a.n] ∧
      t.drives = s.drives ∧ ReadFrame s t

/-- R81, R82, R78, R128: a skipped sector whose id is the end-of-track id ends the command (D16) without data (D17), error bit or trace
of its flags: ST0 to ST2 as R78's preamble clears them, but for EN, and the execution buffer as it empties it (D33; an empty list,
log 5). -/
def Obligations.SkippedLastSectorGivesResultDirectly : Prop :=
  ∀ (wantDeleted mt mf : Bool) (a : StdOperands) (s : State) (tr : Track) (pre post : List Sector) (x : Sector),
    s.isReady a.hu.us = true → s.trackUnderHead a.hu.us = some tr → tr.sectors = pre ++ x :: post → (∀ y ∈ pre, y.r ≠ a.r) →
    x.r = a.r → a.eot = a.r → x.st2.getLsbD 6 ≠ wantDeleted →
    ∃ t, exec (if wantDeleted then .readDeletedData mt mf true a else .readData mt mf true a) s = .next t ∧
      t.phase = .result ∧ t.xbuf = ⟨[], 0, 0, 0⟩ ∧
      t.res.bytes = #v[0, if post = [] then 0x80 else 0, 0, if post = [] then a.c + 1 else a.c, a.h,
                       if post = [] then 1 else a.r + 1, a.n] ∧
      t.drives = s.drives ∧ ReadFrame s t

/-- R83, R84, R81, R82 on a track with ids 1 to N in table order, none with a data error, all wanted (unmarked for READ_DATA,
`wantDeleted` false; marked for READ_DELETED_DATA, `wantDeleted` true), `P.R` = 1 and `P.EOT` = N: every sector's bytes are served
in order, the execution length is their sum, EN is set, ST0 is 0, ST2 is the last sector's, and the result's cylinder is one more
with sector 1. -/
def Obligations.CleanTrackIsReadInFull : Prop :=
  ∀ (wantDeleted mt mf sk : Bool) (a : StdOperands) (s : State) (tr : Track) (last : Sector),
    s.isReady a.hu.us = true → s.trackUnderHead a.hu.us = some tr → tr.sectors.length ≤ 255 →
    (∀ k x, tr.sectors[k]? = some x → x.r = BitVec.ofNat 8 (k + 1)) →
    (∀ x ∈ tr.sectors, x.st1.getLsbD 5 = false ∧ x.st2.getLsbD 5 = false ∧ x.st2.getLsbD 6 = wantDeleted) →
    a.r = 1 → a.eot = BitVec.ofNat 8 tr.sectors.length → tr.sectors.getLast? = some last → totalData tr.sectors ≤ 32768 →
    ∃ t, exec (if wantDeleted then .readDeletedData mt mf sk a else .readData mt mf sk a) s = .next t ∧
      t.xbuf.length = totalData tr.sectors ∧ t.xbuf.counter = totalData tr.sectors ∧ t.xbuf.mem.holds (allData tr.sectors) ∧
      t.phase = (if totalData tr.sectors = 0 then .result else .execution) ∧
      t.res.bytes = #v[0x00, (last.st1 &&& 0x7F) ||| 0x80, last.st2, a.c + 1, a.h, 1, a.n] ∧ t.drives = s.drives

/-- R81, R83, R84, R39: a read whose track under the head holds at most 32768 data bytes completes, in Execution or Result. -/
def Obligations.ReadOfAFittingTrackCompletes : Prop :=
  ∀ (mt mf sk : Bool) (a : StdOperands) (s : State) (tr : Track), s.isReady a.hu.us = true →
    s.trackUnderHead a.hu.us = some tr → totalData tr.sectors ≤ 32768 →
    (∃ t, exec (.readData mt mf sk a) s = .next t ∧ (t.phase = .execution ∨ t.phase = .result)) ∧
    (∃ t, exec (.readDeletedData mt mf sk a) s = .next t ∧ (t.phase = .execution ∨ t.phase = .result))

/-- R78, R83 to R86: the frame of the four read commands. Everything outside their operands (the flags and `P`), ST0 to ST2, the
result bytes, the execution buffer, the phase and the drives is unchanged. READ_DATA, READ_DELETED_DATA and READ_DIAGNOSTIC leave the
drives unchanged too, and every execution byte at or above the write cursor zero; READ_ID leaves the execution bytes unchanged, and
its effect on the drives is stated in `ReadIdReportsTheNextSector` (R86 advances the sector index), `NotReadyShortCircuits` and
`TrackNotFoundShortCircuits`. The flags are the operands, and READ_DIAGNOSTIC and READ_ID keep those their encoding fixes at 0: the
model's form (log 6). -/
def Obligations.ReadCommandsFrame : Prop :=
  ∀ (i : Instr) (s t : State), exec i s = .next t →
    match i with
    | .readData mt mf sk _ => ReadFrame s t ∧ t.drives = s.drives ∧ t.flags = ⟨mt, mf, sk⟩ ∧
        ∀ k, t.xbuf.wr ≤ k → t.xbuf.mem.read k = 0
    | .readDeletedData mt mf sk _ => ReadFrame s t ∧ t.drives = s.drives ∧ t.flags = ⟨mt, mf, sk⟩ ∧
        ∀ k, t.xbuf.wr ≤ k → t.xbuf.mem.read k = 0
    | .readDiagnostic mf sk _ => ReadFrame s t ∧ t.drives = s.drives ∧ t.flags = ⟨s.flags.mt, mf, sk⟩ ∧
        ∀ k, t.xbuf.wr ≤ k → t.xbuf.mem.read k = 0
    | .readId mf _ => ReadFrame s t ∧ t.flags = ⟨s.flags.mt, mf, s.flags.sk⟩ ∧ t.xbuf.mem = s.xbuf.mem ∧
        t.xbuf.wr = s.xbuf.wr
    | _ => True

/-- R85, R82: READ_DIAGNOSTIC serves every sector of the track in table order whatever the requested id, sets ND iff some sector's
CHRN differs from the requested one, always ends with EN set, the cylinder one more and sector 1, and does not look at the
sectors' flags (D21). -/
def Obligations.ReadDiagnosticReadsTheWholeTrack : Prop :=
  ∀ (mf sk : Bool) (a : StdOperands) (s : State) (tr : Track), s.isReady a.hu.us = true →
    s.trackUnderHead a.hu.us = some tr → totalData tr.sectors ≤ 32768 →
    ∃ t, exec (.readDiagnostic mf sk a) s = .next t ∧ t.xbuf.length = totalData tr.sectors ∧
      t.xbuf.counter = totalData tr.sectors ∧ t.xbuf.mem.holds (allData tr.sectors) ∧
      t.phase = (if totalData tr.sectors = 0 then .result else .execution) ∧
      t.bank.st0 = 0 ∧ t.bank.st2 = 0 ∧
      (t.bank.st1 = 0x84 ∨ t.bank.st1 = 0x80) ∧
      (t.bank.st1 = 0x84 ↔ ∃ x ∈ tr.sectors, x.c ≠ a.c ∨ x.h ≠ a.h ∨ x.r ≠ a.r ∨ x.n ≠ a.n) ∧
      t.res.bytes = #v[0x00, t.bank.st1, 0x00, a.c + 1, a.h, 1, a.n] ∧ t.drives = s.drives ∧ ReadFrame s t

/-- R86: READ_ID of a ready unit with a track reports the sector at the drive's sector index modulo the track's count and advances
the index modulo the count (D22); ST0 to ST2 are 0; Result; only the unit's sector index changes in the drives. R86 writes C, H, R
and N of `P`; its other fields and the MF flag are set from the operands, the model's form (log 6), with R67's D10 and R71. Nothing
else changes. -/
def Obligations.ReadIdReportsTheNextSector : Prop :=
  ∀ (mf : Bool) (hu : HeadUnit) (s : State) (tr : Track) (x : Sector), s.isReady hu.us = true →
    s.trackUnderHead hu.us = some tr → tr.sectors[(s.drive hu.us).sectorIndex % tr.sectors.length]? = some x →
    ∃ t, exec (.readId mf hu) s = .next t ∧
      t = { s with phase := .result, flags := { s.flags with mf := mf }, drives := t.drives,
                   p := { headUnitParameters hu with c := x.c, h := x.h, r := x.r, n := x.n },
                   bank := { s.bank with st0 := 0, st1 := 0, st2 := 0 },
                   res := { s.res with bytes := #v[0, 0, 0, x.c, x.h, x.r, x.n] } } ∧
      t.drive hu.us = { s.drive hu.us with
        sectorIndex := ((s.drive hu.us).sectorIndex % tr.sectors.length + 1) % tr.sectors.length } ∧
      ∀ d, d ≠ hu.us → t.drive d = s.drive d

/-- R39: a read command that would copy past the last byte of the execution buffer is refused (D30): READ_DIAGNOSTIC of a track with
more than 32768 data bytes; any pass of the sector loop whose sector, not skipped, does not fit after what was copied before; and so
READ_DATA and READ_DELETED_DATA whose first sector, not skipped, has more than 32768 bytes. -/
def Obligations.ExecBufferOverflowIsRefused : Prop :=
  (∀ (mf sk : Bool) (a : StdOperands) (s : State) (tr : Track), s.isReady a.hu.us = true →
    s.trackUnderHead a.hu.us = some tr → 32768 < totalData tr.sectors →
    exec (.readDiagnostic mf sk a) s = .refused .execBufferOverflow) ∧
  (∀ (wantDeleted : Bool) (t : Track) (passes i : Nat) (x : Sector) (s : State), findSector t.sectors s.p.r = some (i, x) →
    (s.flags.sk && x.mismatch wantDeleted) = false → 32768 < s.xbuf.wr + x.data.length →
    s.readLoop wantDeleted t passes = .refused .execBufferOverflow) ∧
  (∀ (wantDeleted mt mf sk : Bool) (a : StdOperands) (s : State) (tr : Track) (pre post : List Sector) (x : Sector),
    s.isReady a.hu.us = true → s.trackUnderHead a.hu.us = some tr → tr.sectors = pre ++ x :: post → (∀ y ∈ pre, y.r ≠ a.r) →
    x.r = a.r → (sk = true → x.st2.getLsbD 6 = wantDeleted) → 32768 < x.data.length →
    exec (if wantDeleted then .readDeletedData mt mf sk a else .readData mt mf sk a) s = .refused .execBufferOverflow)

/-- R82: the end of a read, for the sector at index `i` of the table: EN, the next cylinder and sector 1 for the table's last sector,
else the next sector (D18, D20); the seven result bytes; Execution with the accumulated bytes to serve, or Result where there are
none (D17). -/
def Obligations.FinishAdvancesAndServes : Prop :=
  ∀ (t : Track) (i : Nat) (s : State),
    ∃ u, s.finish t i = u ∧ u = { s with phase := u.phase, bank := u.bank, p := u.p, xbuf := u.xbuf, res := u.res } ∧
      u.bank = { s.bank with st1 := s.bank.st1 ||| (if i + 1 = t.sectors.length then 0x80 else 0x00) } ∧
      u.p = { s.p with c := if i + 1 = t.sectors.length then s.p.c + 1 else s.p.c,
                       r := if i + 1 = t.sectors.length then 1 else s.p.r + 1 } ∧
      u.res = { s.res with bytes := #v[u.bank.st0, u.bank.st1, u.bank.st2, u.p.c, u.p.h, u.p.r, u.p.n] } ∧
      u.xbuf = { s.xbuf with length := s.xbuf.wr, counter := s.xbuf.wr } ∧
      u.phase = if s.xbuf.wr = 0 then .result else .execution

/-- R81 step 4, R83, R84: with the skip flag an unwanted sector leaves no trace. Where its id is not `P.EOT` the loop goes on at
`P.R + 1` from the state as it was, so a read that begins at such a sector is the read that begins at the next id; where its id is
`P.EOT` the loop ends with what was copied before it (D16). -/
def Obligations.SkippedSectorIsPassedOver : Prop :=
  (∀ (wantDeleted : Bool) (t : Track) (passes : Nat) (s : State) (pre post : List Sector) (x : Sector),
    t.sectors = pre ++ x :: post → (∀ y ∈ pre, y.r ≠ s.p.r) → x.r = s.p.r → s.flags.sk = true →
    x.st2.getLsbD 6 ≠ wantDeleted →
    (s.p.r ≠ s.p.eot → s.readLoop wantDeleted t (passes + 1) =
      ({ s with p := { s.p with r := s.p.r + 1 } } : State).readLoop wantDeleted t passes) ∧
    (s.p.r = s.p.eot → s.readLoop wantDeleted t passes = .next (s.finish t pre.length))) ∧
  (∀ (wantDeleted mt mf : Bool) (a : StdOperands) (s : State) (tr : Track) (pre post : List Sector) (x : Sector),
    s.isReady a.hu.us = true → s.trackUnderHead a.hu.us = some tr → tr.sectors = pre ++ x :: post → (∀ y ∈ pre, y.r ≠ a.r) →
    x.r = a.r → a.eot ≠ a.r → x.st2.getLsbD 6 ≠ wantDeleted →
    exec (if wantDeleted then .readDeletedData mt mf true a else .readData mt mf true a) s =
      exec (if wantDeleted then .readDeletedData mt mf true { a with r := a.r + 1 }
            else .readData mt mf true { a with r := a.r + 1 }) s)

/-- R81 steps 5 and 6, R107, R108: one pass of the sector loop on a sector that is copied. `v` is the state after the copy: the bytes
at the write cursor, the flags propagated with EN masked off, the conditions' bits, `P.EOT` clamped for ControlMark. The loop ends
(R82) iff the id is `P.EOT` or DataError or ControlMark holds, else it goes on at `P.R + 1`. The canonical form of the buffer's memory
is a premise (log 5; it is part of `Inv`, which every step keeps). -/
def Obligations.CopiedSectorEndsTheLoopOrGoesOn : Prop :=
  ∀ (wantDeleted : Bool) (t : Track) (passes : Nat) (s : State) (pre post : List Sector) (x : Sector) (bad control : Bool),
    t.sectors = pre ++ x :: post → (∀ y ∈ pre, y.r ≠ s.p.r) → x.r = s.p.r → s.xbuf.wr + x.data.length ≤ 32768 →
    Memory.wf s.xbuf.mem → bad = (x.st1.getLsbD 5 || x.st2.getLsbD 5) → control = (!s.flags.sk && (x.st2.getLsbD 6 != wantDeleted)) →
    (s.flags.sk = true → x.st2.getLsbD 6 = wantDeleted) →
    ∃ v : State,
      v = { s with xbuf := { s.xbuf with mem := v.xbuf.mem, wr := s.xbuf.wr + x.data.length },
                   bank := { s.bank with st0 := s.bank.st0 ||| (if bad || control then 0x40 else 0x00),
                                         st1 := x.st1 &&& 0x7F,
                                         st2 := x.st2 ||| (if control then 0x40 else 0x00) },
                   p := { s.p with eot := if control then s.p.r else s.p.eot } } ∧
      (∀ k, v.xbuf.mem.read k =
        if s.xbuf.wr ≤ k ∧ k < s.xbuf.wr + x.data.length then x.data.getD (k - s.xbuf.wr) 0 else s.xbuf.mem.read k) ∧
      ((s.p.r = s.p.eot ∨ bad = true ∨ control = true) → s.readLoop wantDeleted t passes = .next (v.finish t pre.length)) ∧
      (s.p.r ≠ s.p.eot → bad = false → control = false →
        s.readLoop wantDeleted t (passes + 1) =
          ({ v with p := { v.p with r := s.p.r + 1 } } : State).readLoop wantDeleted t passes)

/-! ## The stubs -/

/-- R94 to R100: under `STUB_POLICY = refuse` each of the six stub commands is refused, in every state. -/
def Obligations.StubCommandsAreRefused : Prop :=
  ∀ (mt mf sk : Bool) (a : StdOperands) (f : FormatOperands) (c : ScanOperands) (s : State), s.policy = .refuse →
    exec (.writeData mt mf a) s = .refused .stubCommand ∧ exec (.writeId mf f) s = .refused .stubCommand ∧
    exec (.writeDeletedData mt mf a) s = .refused .stubCommand ∧ exec (.scanEqual mt mf sk c) s = .refused .stubCommand ∧
    exec (.scanLowOrEqual mt mf sk c) s = .refused .stubCommand ∧ exec (.scanHighOrEqual mt mf sk c) s = .refused .stubCommand

/-- R101: under `STUB_POLICY = wedge` each of the six stub commands completes as an empty no-op, in every state. -/
def Obligations.StubCommandsAreEmptyUnderWedge : Prop :=
  ∀ (mt mf sk : Bool) (a : StdOperands) (f : FormatOperands) (c : ScanOperands) (s : State), s.policy = .wedge →
    exec (.writeData mt mf a) s = .next s ∧ exec (.writeId mf f) s = .next s ∧ exec (.writeDeletedData mt mf a) s = .next s ∧
    exec (.scanEqual mt mf sk c) s = .next s ∧ exec (.scanLowOrEqual mt mf sk c) s = .next s ∧
    exec (.scanHighOrEqual mt mf sk c) s = .next s

/-- R101: a stub's command byte under `wedge` begins the command, and from then on any number of calls other than a reset leave it
in Command with nothing accepted: a data write changes nothing, a data read answers 0xFF, a status read 0x90. -/
def Obligations.WedgedControllerHangs : Prop :=
  (∀ (s : State) (b : Byte) (rest : List BusEvent), s.inbox = .write .data b :: rest → s.phase = .idle →
    (descriptor (selectIndex b)).kind = .stub → s.policy = .wedge →
    ∃ t, step s = .next t ∧ t.phase = .command ∧ t.cmdIndex = selectIndex b ∧ 4 ≤ t.cmdIndex.val ∧ t.cmdIndex.val ≤ 9 ∧
      t.comm.counter = 0 ∧ t.active.kind = .stub ∧ t.policy = .wedge ∧ t.inbox = rest) ∧
  (∀ (s t : State) (k : Nat), s.phase = .command → s.active.kind = .stub → s.policy = .wedge →
    (∀ e ∈ s.inbox, e.isReset = false) → run k s = .next t →
    t.phase = .command ∧ t.cmdIndex = s.cmdIndex ∧ t.comm = s.comm ∧ t.p = s.p ∧ t.flags = s.flags ∧ t.policy = .wedge ∧
      t.lastReceived = s.lastReceived ∧ t.inbox = s.inbox.drop k ∧
      (∀ rest, t.inbox = .read .data :: rest → ∃ u, step t = .next u ∧ u.dout = 0xFF) ∧
      (∀ rest, t.inbox = .read .msr :: rest → ∃ u, step t = .next u ∧ u.dout = 0x90) ∧
      (∀ b rest, t.inbox = .write .data b :: rest → step t = .next { t with inbox := rest }))
end

