-- ==== Sys2Proof/Laws/Encode.lean ====
section
/-! SUPPORT. The small lemmas of the decoder and the encoder: fields read back from the bytes they were written to, the rows of the
Command Table, the index of a decoded command. -/

namespace Sys2Proof

/-! ## Fields -/

@[simp] theorem mtOf_commandByte (mt mf sk : Bool) (op : BitVec 5) : mtOf (commandByte mt mf sk op) = mt := by
  revert mt mf sk op; decide
@[simp] theorem mfOf_commandByte (mt mf sk : Bool) (op : BitVec 5) : mfOf (commandByte mt mf sk op) = mf := by
  revert mt mf sk op; decide
@[simp] theorem skOf_commandByte (mt mf sk : Bool) (op : BitVec 5) : skOf (commandByte mt mf sk op) = sk := by
  revert mt mf sk op; decide
@[simp] theorem opcodeOf_commandByte (mt mf sk : Bool) (op : BitVec 5) : opcodeOf (commandByte mt mf sk op) = op := by
  revert mt mf sk op; decide
theorem commandByte_fields (b : Byte) : commandByte (mtOf b) (mfOf b) (skOf b) (opcodeOf b) = b := by
  revert b; decide

@[simp] theorem HeadUnit.toByte_ofByte (b : Byte) : (HeadUnit.ofByte b).toByte = b := by
  revert b; decide
@[simp] theorem HeadUnit.ofByte_toByte (hu : HeadUnit) : HeadUnit.ofByte hu.toByte = hu := by
  obtain ⟨pad, hd, us⟩ := hu
  revert pad hd us; decide

@[simp] theorem SpecifyOperands.ofBytes_bytes (a : SpecifyOperands) : SpecifyOperands.ofBytes a.byte0 a.byte1 = a := by
  obtain ⟨srt, hut, hlt, nd⟩ := a
  have h0 : ∀ srt hut : BitVec 4, (srt ++ hut : BitVec 8).extractLsb' 4 4 = srt ∧ (srt ++ hut : BitVec 8).extractLsb' 0 4 = hut := by
    decide
  have h1 : ∀ (hlt : BitVec 7) (nd : Bool), (hlt ++ BitVec.ofBool nd : BitVec 8).extractLsb' 1 7 = hlt ∧
      (hlt ++ BitVec.ofBool nd : BitVec 8).getLsbD 0 = nd := by
    decide
  simp only [SpecifyOperands.ofBytes, SpecifyOperands.byte0, SpecifyOperands.byte1, (h0 srt hut).1, (h0 srt hut).2, (h1 hlt nd).1,
    (h1 hlt nd).2]

@[simp] theorem SpecifyOperands.byte0_ofBytes (b0 b1 : Byte) : (SpecifyOperands.ofBytes b0 b1).byte0 = b0 := by
  have h : ∀ b : Byte, (b.extractLsb' 4 4 ++ b.extractLsb' 0 4 : BitVec 8) = b := by decide
  exact h b0
@[simp] theorem SpecifyOperands.byte1_ofBytes (b0 b1 : Byte) : (SpecifyOperands.ofBytes b0 b1).byte1 = b1 := by
  have h : ∀ b : Byte, (b.extractLsb' 1 7 ++ BitVec.ofBool (b.getLsbD 0) : BitVec 8) = b := by decide
  exact h b1

@[simp] theorem StdOperands.ofBytes_bytes (a : StdOperands) (rest : List Byte) : StdOperands.ofBytes (a.bytes ++ rest) = a := by
  simp [StdOperands.ofBytes, StdOperands.bytes, paramAt]
@[simp] theorem ScanOperands.ofBytes_bytes (a : ScanOperands) (rest : List Byte) : ScanOperands.ofBytes (a.bytes ++ rest) = a := by
  simp [ScanOperands.ofBytes, ScanOperands.bytes, paramAt]
@[simp] theorem FormatOperands.ofBytes_bytes (a : FormatOperands) (rest : List Byte) :
    FormatOperands.ofBytes (a.bytes ++ rest) = a := by
  simp [FormatOperands.ofBytes, FormatOperands.bytes, paramAt]

/-! ## The table and the lookup -/

/-- The lookup answers the entry of an allowed command byte (R50). -/
theorem selectIndex_commandByte (i : Fin 16) (hi : i ≠ 15) (mt mf sk : Bool)
    (h : illegalFlags (descriptor i) (commandByte mt mf sk 0) = false) :
    selectIndex (commandByte mt mf sk (opcodeAt i)) = i := by
  revert i mt mf sk; decide

/-- The flags of a selected entry's command byte are ones it allows (R50). -/
theorem illegalFlags_selectIndex (b : Byte) : illegalFlags (descriptor (selectIndex b)) b = false := by
  revert b; decide

/-- A selected entry other than Invalid has the byte's opcode (R50). -/
theorem opcodeAt_selectIndex (b : Byte) (h : selectIndex b ≠ 15) : opcodeAt (selectIndex b) = opcodeOf b := by
  revert b; decide

/-- An entry's flags do not depend on the opcode bits. -/
theorem illegalFlags_opcode (e : CommandDescriptor) (mt mf sk : Bool) (op op' : BitVec 5) :
    illegalFlags e (commandByte mt mf sk op) = illegalFlags e (commandByte mt mf sk op') := by
  simp [illegalFlags]

/-- The parameterless entries (R73). -/
theorem paramCount_eq_zero (i : Fin 16) : (descriptor i).paramCount = 0 ↔ i = 13 ∨ i = 15 := by
  revert i; decide

theorem paramCount_le_eight (i : Fin 16) : (descriptor i).paramCount ≤ 8 := by
  revert i; decide

/-- The stubs are the controller's CPU-to-controller commands (R51). -/
theorem kind_stub_iff (i : Fin 16) : (descriptor i).kind = .stub ↔ (descriptor i).direction = .inn := by
  revert i; decide

/-! ## Indices -/

theorem paramAt_take (q : List Byte) {n k : Nat} (h : k < n) : paramAt (q.take n) k = paramAt q k := by
  simp [paramAt, List.getD_eq_getElem?_getD, h]

/-- A command is read from its declared parameter bytes alone, and only INVALID from the opcode (R51 to R54). -/
theorem instrOf_take (i : Fin 16) (mt mf sk : Bool) {op op' : BitVec 5} (q : List Byte) (h : i ≠ 15 ∨ op = op') :
    instrOf i mt mf sk op (q.take (descriptor i).paramCount) = instrOf i mt mf sk op' q := by
  by_cases hi : i = 15
  · subst hi
    obtain rfl : op = op' := by simpa using h
    rfl
  · fin_cases i <;>
      first
      | exact absurd rfl hi
      | simp [instrOf, StdOperands.ofBytes, ScanOperands.ofBytes, FormatOperands.ofBytes, descriptor, commandTable, commandRow,
          paramAt_take]

@[simp] theorem instrOf_index (i : Fin 16) (mt mf sk : Bool) (op : BitVec 5) (q : List Byte) :
    (instrOf i mt mf sk op q).index = i := by
  fin_cases i <;> rfl

/-- The parameter bytes of the command an entry's bytes give. -/
theorem instrOf_params (i : Fin 16) (mt mf sk : Bool) (op : BitVec 5) (q : List Byte) (h : q.length = (descriptor i).paramCount) :
    (instrOf i mt mf sk op q).params = q := by
  have aux : ∀ n, q.length = n → q = (List.range n).map (fun k => paramAt q k) := by
    rintro n rfl
    apply List.ext_getElem
    · simp
    · intro k h1 h2
      simp [paramAt, List.getD_eq_getElem?_getD, List.getElem?_eq_getElem h1]
  have hq := aux _ h
  fin_cases i <;> rw [hq] <;>
    simp [instrOf, Instr.params, StdOperands.bytes, ScanOperands.bytes, FormatOperands.bytes, StdOperands.ofBytes,
      ScanOperands.ofBytes, FormatOperands.ofBytes, descriptor, commandTable, commandRow, invalidRow, List.range, List.range.loop,
      paramAt]

/-- A decoded command without bytes to spare is the one its entry gives for its bytes (R47). -/
theorem eq_instrOf_of_decode {cmd : Byte} {bs rest : List Byte} {i : Instr} (h : decode (cmd :: bs) = .ok (i, rest))
    (hlen : bs.length = (descriptor (selectIndex cmd)).paramCount) :
    i = instrOf (selectIndex cmd) (mtOf cmd) (mfOf cmd) (skOf cmd) (opcodeOf cmd) bs := by
  simp only [decode] at h
  rw [if_neg (by omega)] at h
  simp only [Except.ok.injEq, Prod.mk.injEq] at h
  rw [← h.1, List.take_of_length_le (by omega)]

/-- An instruction is what its entry gives for its own command and parameter bytes. -/
theorem instrOf_fields (i : Instr) :
    instrOf i.index (mtOf i.head) (mfOf i.head) (skOf i.head) (opcodeOf i.head) i.params = i := by
  cases i <;> simp [instrOf, Instr.index, Instr.head, Instr.params] <;>
    first
    | (simpa using StdOperands.ofBytes_bytes _ [])
    | (simpa using ScanOperands.ofBytes_bytes _ [])
    | (simpa using FormatOperands.ofBytes_bytes _ [])
    | simp [paramAt]

end Sys2Proof
end

