-- ==== Sys2Proof/Laws/PerInstr.lean ====
section
/-! SUPPORT. Families of facts about every instruction, one lemma per constructor (LAWS.json). -/

namespace Sys2Proof.Laws

/-! `EncodeShape`: a well-formed instruction's command byte selects its own catalog entry and it has as many parameter bytes as
the entry declares (30_encoding.md R47, R50, R51). -/

/-- The statement of the family. -/
def EncodeShape.Statement (i : Instr) : Prop :=
  i.wf = true → selectIndex i.head = i.index ∧ i.params.length = (descriptor i.index).paramCount

theorem EncodeShape.readData (mt mf sk : Bool) (a : StdOperands) : EncodeShape.Statement (.readData mt mf sk a) :=
  fun _ => ⟨selectIndex_commandByte 0 (by decide) mt mf sk (by cases mt <;> cases mf <;> cases sk <;> rfl), rfl⟩
theorem EncodeShape.readDeletedData (mt mf sk : Bool) (a : StdOperands) : EncodeShape.Statement (.readDeletedData mt mf sk a) :=
  fun _ => ⟨selectIndex_commandByte 1 (by decide) mt mf sk (by cases mt <;> cases mf <;> cases sk <;> rfl), rfl⟩
theorem EncodeShape.readDiagnostic (mf sk : Bool) (a : StdOperands) : EncodeShape.Statement (.readDiagnostic mf sk a) :=
  fun _ => ⟨selectIndex_commandByte 2 (by decide) false mf sk (by cases mf <;> cases sk <;> rfl), rfl⟩
theorem EncodeShape.readId (mf : Bool) (hu : HeadUnit) : EncodeShape.Statement (.readId mf hu) :=
  fun _ => ⟨selectIndex_commandByte 3 (by decide) false mf false (by cases mf <;> rfl), rfl⟩
theorem EncodeShape.writeData (mt mf : Bool) (a : StdOperands) : EncodeShape.Statement (.writeData mt mf a) :=
  fun _ => ⟨selectIndex_commandByte 4 (by decide) mt mf false (by cases mt <;> cases mf <;> rfl), rfl⟩
theorem EncodeShape.writeId (mf : Bool) (a : FormatOperands) : EncodeShape.Statement (.writeId mf a) :=
  fun _ => ⟨selectIndex_commandByte 5 (by decide) false mf false (by cases mf <;> rfl), rfl⟩
theorem EncodeShape.writeDeletedData (mt mf : Bool) (a : StdOperands) : EncodeShape.Statement (.writeDeletedData mt mf a) :=
  fun _ => ⟨selectIndex_commandByte 6 (by decide) mt mf false (by cases mt <;> cases mf <;> rfl), rfl⟩
theorem EncodeShape.scanEqual (mt mf sk : Bool) (a : ScanOperands) : EncodeShape.Statement (.scanEqual mt mf sk a) :=
  fun _ => ⟨selectIndex_commandByte 7 (by decide) mt mf sk (by cases mt <;> cases mf <;> cases sk <;> rfl), rfl⟩
theorem EncodeShape.scanLowOrEqual (mt mf sk : Bool) (a : ScanOperands) : EncodeShape.Statement (.scanLowOrEqual mt mf sk a) :=
  fun _ => ⟨selectIndex_commandByte 8 (by decide) mt mf sk (by cases mt <;> cases mf <;> cases sk <;> rfl), rfl⟩
theorem EncodeShape.scanHighOrEqual (mt mf sk : Bool) (a : ScanOperands) : EncodeShape.Statement (.scanHighOrEqual mt mf sk a) :=
  fun _ => ⟨selectIndex_commandByte 9 (by decide) mt mf sk (by cases mt <;> cases mf <;> cases sk <;> rfl), rfl⟩
theorem EncodeShape.specify (a : SpecifyOperands) : EncodeShape.Statement (.specify a) :=
  fun _ => ⟨selectIndex_commandByte 10 (by decide) false false false rfl, rfl⟩
theorem EncodeShape.seek (hu : HeadUnit) (ncn : Byte) : EncodeShape.Statement (.seek hu ncn) :=
  fun _ => ⟨selectIndex_commandByte 11 (by decide) false false false rfl, rfl⟩
theorem EncodeShape.recalibrate (hu : HeadUnit) : EncodeShape.Statement (.recalibrate hu) :=
  fun _ => ⟨selectIndex_commandByte 12 (by decide) false false false rfl, rfl⟩
theorem EncodeShape.senseInterruptStatus : EncodeShape.Statement .senseInterruptStatus :=
  fun _ => ⟨selectIndex_commandByte 13 (by decide) false false false rfl, rfl⟩
theorem EncodeShape.senseDriveStatus (hu : HeadUnit) : EncodeShape.Statement (.senseDriveStatus hu) :=
  fun _ => ⟨selectIndex_commandByte 14 (by decide) false false false rfl, rfl⟩
theorem EncodeShape.invalid (mt mf sk : Bool) (op : BitVec 5) : EncodeShape.Statement (.invalid mt mf sk op) :=
  fun h => ⟨by simpa [Instr.wf, invalidIndex, Instr.head, Instr.index] using h, rfl⟩

/-- The family for any instruction. -/
theorem EncodeShape.all (i : Instr) : EncodeShape.Statement i := by
  cases i
  · exact EncodeShape.readData _ _ _ _
  · exact EncodeShape.readDeletedData _ _ _ _
  · exact EncodeShape.readDiagnostic _ _ _
  · exact EncodeShape.readId _ _
  · exact EncodeShape.writeData _ _ _
  · exact EncodeShape.writeId _ _
  · exact EncodeShape.writeDeletedData _ _ _
  · exact EncodeShape.scanEqual _ _ _ _
  · exact EncodeShape.scanLowOrEqual _ _ _ _
  · exact EncodeShape.scanHighOrEqual _ _ _ _
  · exact EncodeShape.specify _
  · exact EncodeShape.seek _ _
  · exact EncodeShape.recalibrate _
  · exact EncodeShape.senseInterruptStatus
  · exact EncodeShape.senseDriveStatus _
  · exact EncodeShape.invalid _ _ _ _

end Sys2Proof.Laws
end

