-- ==== Sys2Proof/Laws/State.lean ====
section
/-! SUPPORT. One lemma per field per update of State, true by rfl: what each named operation leaves as it was and what it
writes, so that no later proof unfolds a record update. -/

namespace Sys2Proof.Machine

/-! ## Fields left unchanged -/

/-! ### `setDriveRecord` -/

@[simp] theorem State.setDriveRecord_phase (s : State) (d : BitVec 2) (r : DriveRecord) : (s.setDriveRecord d r).phase = s.phase := rfl
@[simp] theorem State.setDriveRecord_cmdIndex (s : State) (d : BitVec 2) (r : DriveRecord) : (s.setDriveRecord d r).cmdIndex = s.cmdIndex := rfl
@[simp] theorem State.setDriveRecord_comm (s : State) (d : BitVec 2) (r : DriveRecord) : (s.setDriveRecord d r).comm = s.comm := rfl
@[simp] theorem State.setDriveRecord_res (s : State) (d : BitVec 2) (r : DriveRecord) : (s.setDriveRecord d r).res = s.res := rfl
@[simp] theorem State.setDriveRecord_xbuf (s : State) (d : BitVec 2) (r : DriveRecord) : (s.setDriveRecord d r).xbuf = s.xbuf := rfl
@[simp] theorem State.setDriveRecord_flags (s : State) (d : BitVec 2) (r : DriveRecord) : (s.setDriveRecord d r).flags = s.flags := rfl
@[simp] theorem State.setDriveRecord_p (s : State) (d : BitVec 2) (r : DriveRecord) : (s.setDriveRecord d r).p = s.p := rfl
@[simp] theorem State.setDriveRecord_times (s : State) (d : BitVec 2) (r : DriveRecord) : (s.setDriveRecord d r).times = s.times := rfl
@[simp] theorem State.setDriveRecord_counters (s : State) (d : BitVec 2) (r : DriveRecord) : (s.setDriveRecord d r).counters = s.counters := rfl
@[simp] theorem State.setDriveRecord_bank (s : State) (d : BitVec 2) (r : DriveRecord) : (s.setDriveRecord d r).bank = s.bank := rfl
@[simp] theorem State.setDriveRecord_lastReceived (s : State) (d : BitVec 2) (r : DriveRecord) : (s.setDriveRecord d r).lastReceived = s.lastReceived := rfl
@[simp] theorem State.setDriveRecord_lastToSend (s : State) (d : BitVec 2) (r : DriveRecord) : (s.setDriveRecord d r).lastToSend = s.lastToSend := rfl
@[simp] theorem State.setDriveRecord_seek (s : State) (d : BitVec 2) (r : DriveRecord) : (s.setDriveRecord d r).seek = s.seek := rfl
@[simp] theorem State.setDriveRecord_driveIndex (s : State) (d : BitVec 2) (r : DriveRecord) : (s.setDriveRecord d r).driveIndex = s.driveIndex := rfl
@[simp] theorem State.setDriveRecord_policy (s : State) (d : BitVec 2) (r : DriveRecord) : (s.setDriveRecord d r).policy = s.policy := rfl
@[simp] theorem State.setDriveRecord_dout (s : State) (d : BitVec 2) (r : DriveRecord) : (s.setDriveRecord d r).dout = s.dout := rfl
@[simp] theorem State.setDriveRecord_inbox (s : State) (d : BitVec 2) (r : DriveRecord) : (s.setDriveRecord d r).inbox = s.inbox := rfl

/-! ### `setCurrentTrack` -/

@[simp] theorem State.setCurrentTrack_phase (s : State) (d : BitVec 2) (t : Nat) : (s.setCurrentTrack d t).phase = s.phase := rfl
@[simp] theorem State.setCurrentTrack_cmdIndex (s : State) (d : BitVec 2) (t : Nat) : (s.setCurrentTrack d t).cmdIndex = s.cmdIndex := rfl
@[simp] theorem State.setCurrentTrack_comm (s : State) (d : BitVec 2) (t : Nat) : (s.setCurrentTrack d t).comm = s.comm := rfl
@[simp] theorem State.setCurrentTrack_res (s : State) (d : BitVec 2) (t : Nat) : (s.setCurrentTrack d t).res = s.res := rfl
@[simp] theorem State.setCurrentTrack_xbuf (s : State) (d : BitVec 2) (t : Nat) : (s.setCurrentTrack d t).xbuf = s.xbuf := rfl
@[simp] theorem State.setCurrentTrack_flags (s : State) (d : BitVec 2) (t : Nat) : (s.setCurrentTrack d t).flags = s.flags := rfl
@[simp] theorem State.setCurrentTrack_p (s : State) (d : BitVec 2) (t : Nat) : (s.setCurrentTrack d t).p = s.p := rfl
@[simp] theorem State.setCurrentTrack_times (s : State) (d : BitVec 2) (t : Nat) : (s.setCurrentTrack d t).times = s.times := rfl
@[simp] theorem State.setCurrentTrack_counters (s : State) (d : BitVec 2) (t : Nat) : (s.setCurrentTrack d t).counters = s.counters := rfl
@[simp] theorem State.setCurrentTrack_bank (s : State) (d : BitVec 2) (t : Nat) : (s.setCurrentTrack d t).bank = s.bank := rfl
@[simp] theorem State.setCurrentTrack_lastReceived (s : State) (d : BitVec 2) (t : Nat) : (s.setCurrentTrack d t).lastReceived = s.lastReceived := rfl
@[simp] theorem State.setCurrentTrack_lastToSend (s : State) (d : BitVec 2) (t : Nat) : (s.setCurrentTrack d t).lastToSend = s.lastToSend := rfl
@[simp] theorem State.setCurrentTrack_seek (s : State) (d : BitVec 2) (t : Nat) : (s.setCurrentTrack d t).seek = s.seek := rfl
@[simp] theorem State.setCurrentTrack_driveIndex (s : State) (d : BitVec 2) (t : Nat) : (s.setCurrentTrack d t).driveIndex = s.driveIndex := rfl
@[simp] theorem State.setCurrentTrack_policy (s : State) (d : BitVec 2) (t : Nat) : (s.setCurrentTrack d t).policy = s.policy := rfl
@[simp] theorem State.setCurrentTrack_dout (s : State) (d : BitVec 2) (t : Nat) : (s.setCurrentTrack d t).dout = s.dout := rfl
@[simp] theorem State.setCurrentTrack_inbox (s : State) (d : BitVec 2) (t : Nat) : (s.setCurrentTrack d t).inbox = s.inbox := rfl

/-! ### `setSectorIndex` -/

@[simp] theorem State.setSectorIndex_phase (s : State) (d : BitVec 2) (i : Nat) : (s.setSectorIndex d i).phase = s.phase := rfl
@[simp] theorem State.setSectorIndex_cmdIndex (s : State) (d : BitVec 2) (i : Nat) : (s.setSectorIndex d i).cmdIndex = s.cmdIndex := rfl
@[simp] theorem State.setSectorIndex_comm (s : State) (d : BitVec 2) (i : Nat) : (s.setSectorIndex d i).comm = s.comm := rfl
@[simp] theorem State.setSectorIndex_res (s : State) (d : BitVec 2) (i : Nat) : (s.setSectorIndex d i).res = s.res := rfl
@[simp] theorem State.setSectorIndex_xbuf (s : State) (d : BitVec 2) (i : Nat) : (s.setSectorIndex d i).xbuf = s.xbuf := rfl
@[simp] theorem State.setSectorIndex_flags (s : State) (d : BitVec 2) (i : Nat) : (s.setSectorIndex d i).flags = s.flags := rfl
@[simp] theorem State.setSectorIndex_p (s : State) (d : BitVec 2) (i : Nat) : (s.setSectorIndex d i).p = s.p := rfl
@[simp] theorem State.setSectorIndex_times (s : State) (d : BitVec 2) (i : Nat) : (s.setSectorIndex d i).times = s.times := rfl
@[simp] theorem State.setSectorIndex_counters (s : State) (d : BitVec 2) (i : Nat) : (s.setSectorIndex d i).counters = s.counters := rfl
@[simp] theorem State.setSectorIndex_bank (s : State) (d : BitVec 2) (i : Nat) : (s.setSectorIndex d i).bank = s.bank := rfl
@[simp] theorem State.setSectorIndex_lastReceived (s : State) (d : BitVec 2) (i : Nat) : (s.setSectorIndex d i).lastReceived = s.lastReceived := rfl
@[simp] theorem State.setSectorIndex_lastToSend (s : State) (d : BitVec 2) (i : Nat) : (s.setSectorIndex d i).lastToSend = s.lastToSend := rfl
@[simp] theorem State.setSectorIndex_seek (s : State) (d : BitVec 2) (i : Nat) : (s.setSectorIndex d i).seek = s.seek := rfl
@[simp] theorem State.setSectorIndex_driveIndex (s : State) (d : BitVec 2) (i : Nat) : (s.setSectorIndex d i).driveIndex = s.driveIndex := rfl
@[simp] theorem State.setSectorIndex_policy (s : State) (d : BitVec 2) (i : Nat) : (s.setSectorIndex d i).policy = s.policy := rfl
@[simp] theorem State.setSectorIndex_dout (s : State) (d : BitVec 2) (i : Nat) : (s.setSectorIndex d i).dout = s.dout := rfl
@[simp] theorem State.setSectorIndex_inbox (s : State) (d : BitVec 2) (i : Nat) : (s.setSectorIndex d i).inbox = s.inbox := rfl

/-! ### `setSeekState` -/

@[simp] theorem State.setSeekState_phase (s : State) (d : BitVec 2) (x : SeekState) : (s.setSeekState d x).phase = s.phase := rfl
@[simp] theorem State.setSeekState_cmdIndex (s : State) (d : BitVec 2) (x : SeekState) : (s.setSeekState d x).cmdIndex = s.cmdIndex := rfl
@[simp] theorem State.setSeekState_comm (s : State) (d : BitVec 2) (x : SeekState) : (s.setSeekState d x).comm = s.comm := rfl
@[simp] theorem State.setSeekState_res (s : State) (d : BitVec 2) (x : SeekState) : (s.setSeekState d x).res = s.res := rfl
@[simp] theorem State.setSeekState_xbuf (s : State) (d : BitVec 2) (x : SeekState) : (s.setSeekState d x).xbuf = s.xbuf := rfl
@[simp] theorem State.setSeekState_flags (s : State) (d : BitVec 2) (x : SeekState) : (s.setSeekState d x).flags = s.flags := rfl
@[simp] theorem State.setSeekState_p (s : State) (d : BitVec 2) (x : SeekState) : (s.setSeekState d x).p = s.p := rfl
@[simp] theorem State.setSeekState_times (s : State) (d : BitVec 2) (x : SeekState) : (s.setSeekState d x).times = s.times := rfl
@[simp] theorem State.setSeekState_counters (s : State) (d : BitVec 2) (x : SeekState) : (s.setSeekState d x).counters = s.counters := rfl
@[simp] theorem State.setSeekState_bank (s : State) (d : BitVec 2) (x : SeekState) : (s.setSeekState d x).bank = s.bank := rfl
@[simp] theorem State.setSeekState_lastReceived (s : State) (d : BitVec 2) (x : SeekState) : (s.setSeekState d x).lastReceived = s.lastReceived := rfl
@[simp] theorem State.setSeekState_lastToSend (s : State) (d : BitVec 2) (x : SeekState) : (s.setSeekState d x).lastToSend = s.lastToSend := rfl
@[simp] theorem State.setSeekState_driveIndex (s : State) (d : BitVec 2) (x : SeekState) : (s.setSeekState d x).driveIndex = s.driveIndex := rfl
@[simp] theorem State.setSeekState_drives (s : State) (d : BitVec 2) (x : SeekState) : (s.setSeekState d x).drives = s.drives := rfl
@[simp] theorem State.setSeekState_policy (s : State) (d : BitVec 2) (x : SeekState) : (s.setSeekState d x).policy = s.policy := rfl
@[simp] theorem State.setSeekState_dout (s : State) (d : BitVec 2) (x : SeekState) : (s.setSeekState d x).dout = s.dout := rfl
@[simp] theorem State.setSeekState_inbox (s : State) (d : BitVec 2) (x : SeekState) : (s.setSeekState d x).inbox = s.inbox := rfl

/-! ### `commit` -/

@[simp] theorem State.commit_phase (s : State) : (s.commit).phase = s.phase := rfl
@[simp] theorem State.commit_cmdIndex (s : State) : (s.commit).cmdIndex = s.cmdIndex := rfl
@[simp] theorem State.commit_comm (s : State) : (s.commit).comm = s.comm := rfl
@[simp] theorem State.commit_xbuf (s : State) : (s.commit).xbuf = s.xbuf := rfl
@[simp] theorem State.commit_flags (s : State) : (s.commit).flags = s.flags := rfl
@[simp] theorem State.commit_p (s : State) : (s.commit).p = s.p := rfl
@[simp] theorem State.commit_times (s : State) : (s.commit).times = s.times := rfl
@[simp] theorem State.commit_counters (s : State) : (s.commit).counters = s.counters := rfl
@[simp] theorem State.commit_bank (s : State) : (s.commit).bank = s.bank := rfl
@[simp] theorem State.commit_lastReceived (s : State) : (s.commit).lastReceived = s.lastReceived := rfl
@[simp] theorem State.commit_lastToSend (s : State) : (s.commit).lastToSend = s.lastToSend := rfl
@[simp] theorem State.commit_seek (s : State) : (s.commit).seek = s.seek := rfl
@[simp] theorem State.commit_driveIndex (s : State) : (s.commit).driveIndex = s.driveIndex := rfl
@[simp] theorem State.commit_drives (s : State) : (s.commit).drives = s.drives := rfl
@[simp] theorem State.commit_policy (s : State) : (s.commit).policy = s.policy := rfl
@[simp] theorem State.commit_dout (s : State) : (s.commit).dout = s.dout := rfl
@[simp] theorem State.commit_inbox (s : State) : (s.commit).inbox = s.inbox := rfl

/-! ### `raiseCondition` -/

@[simp] theorem State.raiseCondition_cmdIndex (s : State) (x : ShortCircuit) : (s.raiseCondition x).cmdIndex = s.cmdIndex := rfl
@[simp] theorem State.raiseCondition_comm (s : State) (x : ShortCircuit) : (s.raiseCondition x).comm = s.comm := rfl
@[simp] theorem State.raiseCondition_flags (s : State) (x : ShortCircuit) : (s.raiseCondition x).flags = s.flags := rfl
@[simp] theorem State.raiseCondition_p (s : State) (x : ShortCircuit) : (s.raiseCondition x).p = s.p := rfl
@[simp] theorem State.raiseCondition_times (s : State) (x : ShortCircuit) : (s.raiseCondition x).times = s.times := rfl
@[simp] theorem State.raiseCondition_counters (s : State) (x : ShortCircuit) : (s.raiseCondition x).counters = s.counters := rfl
@[simp] theorem State.raiseCondition_lastReceived (s : State) (x : ShortCircuit) : (s.raiseCondition x).lastReceived = s.lastReceived := rfl
@[simp] theorem State.raiseCondition_lastToSend (s : State) (x : ShortCircuit) : (s.raiseCondition x).lastToSend = s.lastToSend := rfl
@[simp] theorem State.raiseCondition_seek (s : State) (x : ShortCircuit) : (s.raiseCondition x).seek = s.seek := rfl
@[simp] theorem State.raiseCondition_driveIndex (s : State) (x : ShortCircuit) : (s.raiseCondition x).driveIndex = s.driveIndex := rfl
@[simp] theorem State.raiseCondition_drives (s : State) (x : ShortCircuit) : (s.raiseCondition x).drives = s.drives := rfl
@[simp] theorem State.raiseCondition_policy (s : State) (x : ShortCircuit) : (s.raiseCondition x).policy = s.policy := rfl
@[simp] theorem State.raiseCondition_dout (s : State) (x : ShortCircuit) : (s.raiseCondition x).dout = s.dout := rfl
@[simp] theorem State.raiseCondition_inbox (s : State) (x : ShortCircuit) : (s.raiseCondition x).inbox = s.inbox := rfl

/-! ### `readDefaultByte` -/

@[simp] theorem State.readDefaultByte_phase (s : State) : (s.readDefaultByte).phase = s.phase := rfl
@[simp] theorem State.readDefaultByte_cmdIndex (s : State) : (s.readDefaultByte).cmdIndex = s.cmdIndex := rfl
@[simp] theorem State.readDefaultByte_comm (s : State) : (s.readDefaultByte).comm = s.comm := rfl
@[simp] theorem State.readDefaultByte_res (s : State) : (s.readDefaultByte).res = s.res := rfl
@[simp] theorem State.readDefaultByte_xbuf (s : State) : (s.readDefaultByte).xbuf = s.xbuf := rfl
@[simp] theorem State.readDefaultByte_flags (s : State) : (s.readDefaultByte).flags = s.flags := rfl
@[simp] theorem State.readDefaultByte_p (s : State) : (s.readDefaultByte).p = s.p := rfl
@[simp] theorem State.readDefaultByte_times (s : State) : (s.readDefaultByte).times = s.times := rfl
@[simp] theorem State.readDefaultByte_counters (s : State) : (s.readDefaultByte).counters = s.counters := rfl
@[simp] theorem State.readDefaultByte_bank (s : State) : (s.readDefaultByte).bank = s.bank := rfl
@[simp] theorem State.readDefaultByte_lastReceived (s : State) : (s.readDefaultByte).lastReceived = s.lastReceived := rfl
@[simp] theorem State.readDefaultByte_seek (s : State) : (s.readDefaultByte).seek = s.seek := rfl
@[simp] theorem State.readDefaultByte_driveIndex (s : State) : (s.readDefaultByte).driveIndex = s.driveIndex := rfl
@[simp] theorem State.readDefaultByte_drives (s : State) : (s.readDefaultByte).drives = s.drives := rfl
@[simp] theorem State.readDefaultByte_policy (s : State) : (s.readDefaultByte).policy = s.policy := rfl
@[simp] theorem State.readDefaultByte_inbox (s : State) : (s.readDefaultByte).inbox = s.inbox := rfl

/-! ### `readMainStatus` -/

@[simp] theorem State.readMainStatus_phase (s : State) : (s.readMainStatus).phase = s.phase := rfl
@[simp] theorem State.readMainStatus_cmdIndex (s : State) : (s.readMainStatus).cmdIndex = s.cmdIndex := rfl
@[simp] theorem State.readMainStatus_comm (s : State) : (s.readMainStatus).comm = s.comm := rfl
@[simp] theorem State.readMainStatus_res (s : State) : (s.readMainStatus).res = s.res := rfl
@[simp] theorem State.readMainStatus_xbuf (s : State) : (s.readMainStatus).xbuf = s.xbuf := rfl
@[simp] theorem State.readMainStatus_flags (s : State) : (s.readMainStatus).flags = s.flags := rfl
@[simp] theorem State.readMainStatus_p (s : State) : (s.readMainStatus).p = s.p := rfl
@[simp] theorem State.readMainStatus_times (s : State) : (s.readMainStatus).times = s.times := rfl
@[simp] theorem State.readMainStatus_counters (s : State) : (s.readMainStatus).counters = s.counters := rfl
@[simp] theorem State.readMainStatus_lastReceived (s : State) : (s.readMainStatus).lastReceived = s.lastReceived := rfl
@[simp] theorem State.readMainStatus_lastToSend (s : State) : (s.readMainStatus).lastToSend = s.lastToSend := rfl
@[simp] theorem State.readMainStatus_seek (s : State) : (s.readMainStatus).seek = s.seek := rfl
@[simp] theorem State.readMainStatus_driveIndex (s : State) : (s.readMainStatus).driveIndex = s.driveIndex := rfl
@[simp] theorem State.readMainStatus_drives (s : State) : (s.readMainStatus).drives = s.drives := rfl
@[simp] theorem State.readMainStatus_policy (s : State) : (s.readMainStatus).policy = s.policy := rfl
@[simp] theorem State.readMainStatus_inbox (s : State) : (s.readMainStatus).inbox = s.inbox := rfl

/-! ### `tick` -/

@[simp] theorem State.tick_phase (s : State) : (s.tick).phase = s.phase := rfl
@[simp] theorem State.tick_cmdIndex (s : State) : (s.tick).cmdIndex = s.cmdIndex := rfl
@[simp] theorem State.tick_comm (s : State) : (s.tick).comm = s.comm := rfl
@[simp] theorem State.tick_res (s : State) : (s.tick).res = s.res := rfl
@[simp] theorem State.tick_xbuf (s : State) : (s.tick).xbuf = s.xbuf := rfl
@[simp] theorem State.tick_flags (s : State) : (s.tick).flags = s.flags := rfl
@[simp] theorem State.tick_p (s : State) : (s.tick).p = s.p := rfl
@[simp] theorem State.tick_times (s : State) : (s.tick).times = s.times := rfl
@[simp] theorem State.tick_bank (s : State) : (s.tick).bank = s.bank := rfl
@[simp] theorem State.tick_lastReceived (s : State) : (s.tick).lastReceived = s.lastReceived := rfl
@[simp] theorem State.tick_lastToSend (s : State) : (s.tick).lastToSend = s.lastToSend := rfl
@[simp] theorem State.tick_seek (s : State) : (s.tick).seek = s.seek := rfl
@[simp] theorem State.tick_driveIndex (s : State) : (s.tick).driveIndex = s.driveIndex := rfl
@[simp] theorem State.tick_drives (s : State) : (s.tick).drives = s.drives := rfl
@[simp] theorem State.tick_policy (s : State) : (s.tick).policy = s.policy := rfl
@[simp] theorem State.tick_dout (s : State) : (s.tick).dout = s.dout := rfl
@[simp] theorem State.tick_inbox (s : State) : (s.tick).inbox = s.inbox := rfl

/-! ### `beginCommand` -/

@[simp] theorem State.beginCommand_cmdIndex (s : State) : (s.beginCommand).cmdIndex = s.cmdIndex := rfl
@[simp] theorem State.beginCommand_flags (s : State) : (s.beginCommand).flags = s.flags := rfl
@[simp] theorem State.beginCommand_times (s : State) : (s.beginCommand).times = s.times := rfl
@[simp] theorem State.beginCommand_counters (s : State) : (s.beginCommand).counters = s.counters := rfl
@[simp] theorem State.beginCommand_bank (s : State) : (s.beginCommand).bank = s.bank := rfl
@[simp] theorem State.beginCommand_lastReceived (s : State) : (s.beginCommand).lastReceived = s.lastReceived := rfl
@[simp] theorem State.beginCommand_lastToSend (s : State) : (s.beginCommand).lastToSend = s.lastToSend := rfl
@[simp] theorem State.beginCommand_seek (s : State) : (s.beginCommand).seek = s.seek := rfl
@[simp] theorem State.beginCommand_driveIndex (s : State) : (s.beginCommand).driveIndex = s.driveIndex := rfl
@[simp] theorem State.beginCommand_drives (s : State) : (s.beginCommand).drives = s.drives := rfl
@[simp] theorem State.beginCommand_policy (s : State) : (s.beginCommand).policy = s.policy := rfl
@[simp] theorem State.beginCommand_dout (s : State) : (s.beginCommand).dout = s.dout := rfl
@[simp] theorem State.beginCommand_inbox (s : State) : (s.beginCommand).inbox = s.inbox := rfl

/-! ### `acceptCommandByte` -/

@[simp] theorem State.acceptCommandByte_times (s : State) (b : Byte) : (s.acceptCommandByte b).times = s.times := rfl
@[simp] theorem State.acceptCommandByte_counters (s : State) (b : Byte) : (s.acceptCommandByte b).counters = s.counters := rfl
@[simp] theorem State.acceptCommandByte_bank (s : State) (b : Byte) : (s.acceptCommandByte b).bank = s.bank := rfl
@[simp] theorem State.acceptCommandByte_lastToSend (s : State) (b : Byte) : (s.acceptCommandByte b).lastToSend = s.lastToSend := rfl
@[simp] theorem State.acceptCommandByte_seek (s : State) (b : Byte) : (s.acceptCommandByte b).seek = s.seek := rfl
@[simp] theorem State.acceptCommandByte_driveIndex (s : State) (b : Byte) : (s.acceptCommandByte b).driveIndex = s.driveIndex := rfl
@[simp] theorem State.acceptCommandByte_drives (s : State) (b : Byte) : (s.acceptCommandByte b).drives = s.drives := rfl
@[simp] theorem State.acceptCommandByte_policy (s : State) (b : Byte) : (s.acceptCommandByte b).policy = s.policy := rfl
@[simp] theorem State.acceptCommandByte_dout (s : State) (b : Byte) : (s.acceptCommandByte b).dout = s.dout := rfl
@[simp] theorem State.acceptCommandByte_inbox (s : State) (b : Byte) : (s.acceptCommandByte b).inbox = s.inbox := rfl

/-! ### `withOperands` -/

@[simp] theorem State.withOperands_phase (s : State) (f : CommandFlags) (q : CommandParameters) : (s.withOperands f q).phase = s.phase := rfl
@[simp] theorem State.withOperands_cmdIndex (s : State) (f : CommandFlags) (q : CommandParameters) : (s.withOperands f q).cmdIndex = s.cmdIndex := rfl
@[simp] theorem State.withOperands_comm (s : State) (f : CommandFlags) (q : CommandParameters) : (s.withOperands f q).comm = s.comm := rfl
@[simp] theorem State.withOperands_res (s : State) (f : CommandFlags) (q : CommandParameters) : (s.withOperands f q).res = s.res := rfl
@[simp] theorem State.withOperands_xbuf (s : State) (f : CommandFlags) (q : CommandParameters) : (s.withOperands f q).xbuf = s.xbuf := rfl
@[simp] theorem State.withOperands_times (s : State) (f : CommandFlags) (q : CommandParameters) : (s.withOperands f q).times = s.times := rfl
@[simp] theorem State.withOperands_counters (s : State) (f : CommandFlags) (q : CommandParameters) : (s.withOperands f q).counters = s.counters := rfl
@[simp] theorem State.withOperands_bank (s : State) (f : CommandFlags) (q : CommandParameters) : (s.withOperands f q).bank = s.bank := rfl
@[simp] theorem State.withOperands_lastReceived (s : State) (f : CommandFlags) (q : CommandParameters) : (s.withOperands f q).lastReceived = s.lastReceived := rfl
@[simp] theorem State.withOperands_lastToSend (s : State) (f : CommandFlags) (q : CommandParameters) : (s.withOperands f q).lastToSend = s.lastToSend := rfl
@[simp] theorem State.withOperands_seek (s : State) (f : CommandFlags) (q : CommandParameters) : (s.withOperands f q).seek = s.seek := rfl
@[simp] theorem State.withOperands_driveIndex (s : State) (f : CommandFlags) (q : CommandParameters) : (s.withOperands f q).driveIndex = s.driveIndex := rfl
@[simp] theorem State.withOperands_drives (s : State) (f : CommandFlags) (q : CommandParameters) : (s.withOperands f q).drives = s.drives := rfl
@[simp] theorem State.withOperands_policy (s : State) (f : CommandFlags) (q : CommandParameters) : (s.withOperands f q).policy = s.policy := rfl
@[simp] theorem State.withOperands_dout (s : State) (f : CommandFlags) (q : CommandParameters) : (s.withOperands f q).dout = s.dout := rfl
@[simp] theorem State.withOperands_inbox (s : State) (f : CommandFlags) (q : CommandParameters) : (s.withOperands f q).inbox = s.inbox := rfl

/-! ### `seekTo` -/

@[simp] theorem State.seekTo_cmdIndex (s : State) (d : BitVec 2) (t : Nat) (x : SeekState) : (s.seekTo d t x).cmdIndex = s.cmdIndex := rfl
@[simp] theorem State.seekTo_comm (s : State) (d : BitVec 2) (t : Nat) (x : SeekState) : (s.seekTo d t x).comm = s.comm := rfl
@[simp] theorem State.seekTo_res (s : State) (d : BitVec 2) (t : Nat) (x : SeekState) : (s.seekTo d t x).res = s.res := rfl
@[simp] theorem State.seekTo_xbuf (s : State) (d : BitVec 2) (t : Nat) (x : SeekState) : (s.seekTo d t x).xbuf = s.xbuf := rfl
@[simp] theorem State.seekTo_flags (s : State) (d : BitVec 2) (t : Nat) (x : SeekState) : (s.seekTo d t x).flags = s.flags := rfl
@[simp] theorem State.seekTo_p (s : State) (d : BitVec 2) (t : Nat) (x : SeekState) : (s.seekTo d t x).p = s.p := rfl
@[simp] theorem State.seekTo_times (s : State) (d : BitVec 2) (t : Nat) (x : SeekState) : (s.seekTo d t x).times = s.times := rfl
@[simp] theorem State.seekTo_counters (s : State) (d : BitVec 2) (t : Nat) (x : SeekState) : (s.seekTo d t x).counters = s.counters := rfl
@[simp] theorem State.seekTo_bank (s : State) (d : BitVec 2) (t : Nat) (x : SeekState) : (s.seekTo d t x).bank = s.bank := rfl
@[simp] theorem State.seekTo_lastReceived (s : State) (d : BitVec 2) (t : Nat) (x : SeekState) : (s.seekTo d t x).lastReceived = s.lastReceived := rfl
@[simp] theorem State.seekTo_lastToSend (s : State) (d : BitVec 2) (t : Nat) (x : SeekState) : (s.seekTo d t x).lastToSend = s.lastToSend := rfl
@[simp] theorem State.seekTo_driveIndex (s : State) (d : BitVec 2) (t : Nat) (x : SeekState) : (s.seekTo d t x).driveIndex = s.driveIndex := rfl
@[simp] theorem State.seekTo_policy (s : State) (d : BitVec 2) (t : Nat) (x : SeekState) : (s.seekTo d t x).policy = s.policy := rfl
@[simp] theorem State.seekTo_dout (s : State) (d : BitVec 2) (t : Nat) (x : SeekState) : (s.seekTo d t x).dout = s.dout := rfl
@[simp] theorem State.seekTo_inbox (s : State) (d : BitVec 2) (t : Nat) (x : SeekState) : (s.seekTo d t x).inbox = s.inbox := rfl

/-! ### `reportSector` -/

@[simp] theorem State.reportSector_cmdIndex (s : State) (d : BitVec 2) (n i : Nat) (x : Sector) : (s.reportSector d n i x).cmdIndex = s.cmdIndex := rfl
@[simp] theorem State.reportSector_comm (s : State) (d : BitVec 2) (n i : Nat) (x : Sector) : (s.reportSector d n i x).comm = s.comm := rfl
@[simp] theorem State.reportSector_xbuf (s : State) (d : BitVec 2) (n i : Nat) (x : Sector) : (s.reportSector d n i x).xbuf = s.xbuf := rfl
@[simp] theorem State.reportSector_flags (s : State) (d : BitVec 2) (n i : Nat) (x : Sector) : (s.reportSector d n i x).flags = s.flags := rfl
@[simp] theorem State.reportSector_times (s : State) (d : BitVec 2) (n i : Nat) (x : Sector) : (s.reportSector d n i x).times = s.times := rfl
@[simp] theorem State.reportSector_counters (s : State) (d : BitVec 2) (n i : Nat) (x : Sector) : (s.reportSector d n i x).counters = s.counters := rfl
@[simp] theorem State.reportSector_bank (s : State) (d : BitVec 2) (n i : Nat) (x : Sector) : (s.reportSector d n i x).bank = s.bank := rfl
@[simp] theorem State.reportSector_lastReceived (s : State) (d : BitVec 2) (n i : Nat) (x : Sector) : (s.reportSector d n i x).lastReceived = s.lastReceived := rfl
@[simp] theorem State.reportSector_lastToSend (s : State) (d : BitVec 2) (n i : Nat) (x : Sector) : (s.reportSector d n i x).lastToSend = s.lastToSend := rfl
@[simp] theorem State.reportSector_seek (s : State) (d : BitVec 2) (n i : Nat) (x : Sector) : (s.reportSector d n i x).seek = s.seek := rfl
@[simp] theorem State.reportSector_driveIndex (s : State) (d : BitVec 2) (n i : Nat) (x : Sector) : (s.reportSector d n i x).driveIndex = s.driveIndex := rfl
@[simp] theorem State.reportSector_policy (s : State) (d : BitVec 2) (n i : Nat) (x : Sector) : (s.reportSector d n i x).policy = s.policy := rfl
@[simp] theorem State.reportSector_dout (s : State) (d : BitVec 2) (n i : Nat) (x : Sector) : (s.reportSector d n i x).dout = s.dout := rfl
@[simp] theorem State.reportSector_inbox (s : State) (d : BitVec 2) (n i : Nat) (x : Sector) : (s.reportSector d n i x).inbox = s.inbox := rfl
/-! ### `advance`, `serve`, `finish`, `takeSector` -/

@[simp] theorem State.advance_phase (s : State) (t : Track) (i : Nat) : (s.advance t i).phase = s.phase := by
  unfold State.advance; split <;> rfl
@[simp] theorem State.advance_cmdIndex (s : State) (t : Track) (i : Nat) : (s.advance t i).cmdIndex = s.cmdIndex := by
  unfold State.advance; split <;> rfl
@[simp] theorem State.advance_comm (s : State) (t : Track) (i : Nat) : (s.advance t i).comm = s.comm := by
  unfold State.advance; split <;> rfl
@[simp] theorem State.advance_res (s : State) (t : Track) (i : Nat) : (s.advance t i).res = s.res := by
  unfold State.advance; split <;> rfl
@[simp] theorem State.advance_xbuf (s : State) (t : Track) (i : Nat) : (s.advance t i).xbuf = s.xbuf := by
  unfold State.advance; split <;> rfl
@[simp] theorem State.advance_flags (s : State) (t : Track) (i : Nat) : (s.advance t i).flags = s.flags := by
  unfold State.advance; split <;> rfl
@[simp] theorem State.advance_times (s : State) (t : Track) (i : Nat) : (s.advance t i).times = s.times := by
  unfold State.advance; split <;> rfl
@[simp] theorem State.advance_counters (s : State) (t : Track) (i : Nat) : (s.advance t i).counters = s.counters := by
  unfold State.advance; split <;> rfl
@[simp] theorem State.advance_lastReceived (s : State) (t : Track) (i : Nat) : (s.advance t i).lastReceived = s.lastReceived := by
  unfold State.advance; split <;> rfl
@[simp] theorem State.advance_lastToSend (s : State) (t : Track) (i : Nat) : (s.advance t i).lastToSend = s.lastToSend := by
  unfold State.advance; split <;> rfl
@[simp] theorem State.advance_seek (s : State) (t : Track) (i : Nat) : (s.advance t i).seek = s.seek := by
  unfold State.advance; split <;> rfl
@[simp] theorem State.advance_driveIndex (s : State) (t : Track) (i : Nat) : (s.advance t i).driveIndex = s.driveIndex := by
  unfold State.advance; split <;> rfl
@[simp] theorem State.advance_drives (s : State) (t : Track) (i : Nat) : (s.advance t i).drives = s.drives := by
  unfold State.advance; split <;> rfl
@[simp] theorem State.advance_policy (s : State) (t : Track) (i : Nat) : (s.advance t i).policy = s.policy := by
  unfold State.advance; split <;> rfl
@[simp] theorem State.advance_dout (s : State) (t : Track) (i : Nat) : (s.advance t i).dout = s.dout := by
  unfold State.advance; split <;> rfl
@[simp] theorem State.advance_inbox (s : State) (t : Track) (i : Nat) : (s.advance t i).inbox = s.inbox := by
  unfold State.advance; split <;> rfl

@[simp] theorem State.serve_cmdIndex (s : State) : s.serve.cmdIndex = s.cmdIndex := by
  unfold State.serve; split <;> rfl
@[simp] theorem State.serve_comm (s : State) : s.serve.comm = s.comm := by
  unfold State.serve; split <;> rfl
@[simp] theorem State.serve_res (s : State) : s.serve.res = s.res := by
  unfold State.serve; split <;> rfl
@[simp] theorem State.serve_flags (s : State) : s.serve.flags = s.flags := by
  unfold State.serve; split <;> rfl
@[simp] theorem State.serve_p (s : State) : s.serve.p = s.p := by
  unfold State.serve; split <;> rfl
@[simp] theorem State.serve_times (s : State) : s.serve.times = s.times := by
  unfold State.serve; split <;> rfl
@[simp] theorem State.serve_counters (s : State) : s.serve.counters = s.counters := by
  unfold State.serve; split <;> rfl
@[simp] theorem State.serve_bank (s : State) : s.serve.bank = s.bank := by
  unfold State.serve; split <;> rfl
@[simp] theorem State.serve_lastReceived (s : State) : s.serve.lastReceived = s.lastReceived := by
  unfold State.serve; split <;> rfl
@[simp] theorem State.serve_lastToSend (s : State) : s.serve.lastToSend = s.lastToSend := by
  unfold State.serve; split <;> rfl
@[simp] theorem State.serve_seek (s : State) : s.serve.seek = s.seek := by
  unfold State.serve; split <;> rfl
@[simp] theorem State.serve_driveIndex (s : State) : s.serve.driveIndex = s.driveIndex := by
  unfold State.serve; split <;> rfl
@[simp] theorem State.serve_drives (s : State) : s.serve.drives = s.drives := by
  unfold State.serve; split <;> rfl
@[simp] theorem State.serve_policy (s : State) : s.serve.policy = s.policy := by
  unfold State.serve; split <;> rfl
@[simp] theorem State.serve_dout (s : State) : s.serve.dout = s.dout := by
  unfold State.serve; split <;> rfl
@[simp] theorem State.serve_inbox (s : State) : s.serve.inbox = s.inbox := by
  unfold State.serve; split <;> rfl

@[simp] theorem State.finish_cmdIndex (s : State) (t : Track) (i : Nat) : (s.finish t i).cmdIndex = s.cmdIndex := by
  simp [State.finish]
@[simp] theorem State.finish_comm (s : State) (t : Track) (i : Nat) : (s.finish t i).comm = s.comm := by
  simp [State.finish]
@[simp] theorem State.finish_flags (s : State) (t : Track) (i : Nat) : (s.finish t i).flags = s.flags := by
  simp [State.finish]
@[simp] theorem State.finish_times (s : State) (t : Track) (i : Nat) : (s.finish t i).times = s.times := by
  simp [State.finish]
@[simp] theorem State.finish_counters (s : State) (t : Track) (i : Nat) : (s.finish t i).counters = s.counters := by
  simp [State.finish]
@[simp] theorem State.finish_lastReceived (s : State) (t : Track) (i : Nat) : (s.finish t i).lastReceived = s.lastReceived := by
  simp [State.finish]
@[simp] theorem State.finish_lastToSend (s : State) (t : Track) (i : Nat) : (s.finish t i).lastToSend = s.lastToSend := by
  simp [State.finish]
@[simp] theorem State.finish_seek (s : State) (t : Track) (i : Nat) : (s.finish t i).seek = s.seek := by
  simp [State.finish]
@[simp] theorem State.finish_driveIndex (s : State) (t : Track) (i : Nat) : (s.finish t i).driveIndex = s.driveIndex := by
  simp [State.finish]
@[simp] theorem State.finish_drives (s : State) (t : Track) (i : Nat) : (s.finish t i).drives = s.drives := by
  simp [State.finish]
@[simp] theorem State.finish_policy (s : State) (t : Track) (i : Nat) : (s.finish t i).policy = s.policy := by
  simp [State.finish]
@[simp] theorem State.finish_dout (s : State) (t : Track) (i : Nat) : (s.finish t i).dout = s.dout := by
  simp [State.finish]
@[simp] theorem State.finish_inbox (s : State) (t : Track) (i : Nat) : (s.finish t i).inbox = s.inbox := by
  simp [State.finish]

@[simp] theorem State.takeSector_phase (s : State) (w : Bool) (x : Sector) : (s.takeSector w x).1.phase = s.phase := rfl
@[simp] theorem State.takeSector_cmdIndex (s : State) (w : Bool) (x : Sector) : (s.takeSector w x).1.cmdIndex = s.cmdIndex := rfl
@[simp] theorem State.takeSector_comm (s : State) (w : Bool) (x : Sector) : (s.takeSector w x).1.comm = s.comm := rfl
@[simp] theorem State.takeSector_res (s : State) (w : Bool) (x : Sector) : (s.takeSector w x).1.res = s.res := rfl
@[simp] theorem State.takeSector_flags (s : State) (w : Bool) (x : Sector) : (s.takeSector w x).1.flags = s.flags := rfl
@[simp] theorem State.takeSector_times (s : State) (w : Bool) (x : Sector) : (s.takeSector w x).1.times = s.times := rfl
@[simp] theorem State.takeSector_counters (s : State) (w : Bool) (x : Sector) : (s.takeSector w x).1.counters = s.counters := rfl
@[simp] theorem State.takeSector_lastReceived (s : State) (w : Bool) (x : Sector) : (s.takeSector w x).1.lastReceived = s.lastReceived := rfl
@[simp] theorem State.takeSector_lastToSend (s : State) (w : Bool) (x : Sector) : (s.takeSector w x).1.lastToSend = s.lastToSend := rfl
@[simp] theorem State.takeSector_seek (s : State) (w : Bool) (x : Sector) : (s.takeSector w x).1.seek = s.seek := rfl
@[simp] theorem State.takeSector_driveIndex (s : State) (w : Bool) (x : Sector) : (s.takeSector w x).1.driveIndex = s.driveIndex := rfl
@[simp] theorem State.takeSector_drives (s : State) (w : Bool) (x : Sector) : (s.takeSector w x).1.drives = s.drives := rfl
@[simp] theorem State.takeSector_policy (s : State) (w : Bool) (x : Sector) : (s.takeSector w x).1.policy = s.policy := rfl
@[simp] theorem State.takeSector_dout (s : State) (w : Bool) (x : Sector) : (s.takeSector w x).1.dout = s.dout := rfl
@[simp] theorem State.takeSector_inbox (s : State) (w : Bool) (x : Sector) : (s.takeSector w x).1.inbox = s.inbox := rfl

/-! ### The parameter parsers -/

@[simp] theorem State.parseSpecify_phase (s : State) (i : Nat) (b : Byte) : (s.parseSpecify i b).phase = s.phase := by
  unfold State.parseSpecify; split <;> rfl
@[simp] theorem State.parseSpecify_cmdIndex (s : State) (i : Nat) (b : Byte) : (s.parseSpecify i b).cmdIndex = s.cmdIndex := by
  unfold State.parseSpecify; split <;> rfl
@[simp] theorem State.parseSpecify_comm (s : State) (i : Nat) (b : Byte) : (s.parseSpecify i b).comm = s.comm := by
  unfold State.parseSpecify; split <;> rfl
@[simp] theorem State.parseSpecify_res (s : State) (i : Nat) (b : Byte) : (s.parseSpecify i b).res = s.res := by
  unfold State.parseSpecify; split <;> rfl
@[simp] theorem State.parseSpecify_xbuf (s : State) (i : Nat) (b : Byte) : (s.parseSpecify i b).xbuf = s.xbuf := by
  unfold State.parseSpecify; split <;> rfl
@[simp] theorem State.parseSpecify_flags (s : State) (i : Nat) (b : Byte) : (s.parseSpecify i b).flags = s.flags := by
  unfold State.parseSpecify; split <;> rfl
@[simp] theorem State.parseSpecify_p (s : State) (i : Nat) (b : Byte) : (s.parseSpecify i b).p = s.p := by
  unfold State.parseSpecify; split <;> rfl
@[simp] theorem State.parseSpecify_bank (s : State) (i : Nat) (b : Byte) : (s.parseSpecify i b).bank = s.bank := by
  unfold State.parseSpecify; split <;> rfl
@[simp] theorem State.parseSpecify_lastReceived (s : State) (i : Nat) (b : Byte) : (s.parseSpecify i b).lastReceived = s.lastReceived := by
  unfold State.parseSpecify; split <;> rfl
@[simp] theorem State.parseSpecify_lastToSend (s : State) (i : Nat) (b : Byte) : (s.parseSpecify i b).lastToSend = s.lastToSend := by
  unfold State.parseSpecify; split <;> rfl
@[simp] theorem State.parseSpecify_seek (s : State) (i : Nat) (b : Byte) : (s.parseSpecify i b).seek = s.seek := by
  unfold State.parseSpecify; split <;> rfl
@[simp] theorem State.parseSpecify_driveIndex (s : State) (i : Nat) (b : Byte) : (s.parseSpecify i b).driveIndex = s.driveIndex := by
  unfold State.parseSpecify; split <;> rfl
@[simp] theorem State.parseSpecify_drives (s : State) (i : Nat) (b : Byte) : (s.parseSpecify i b).drives = s.drives := by
  unfold State.parseSpecify; split <;> rfl
@[simp] theorem State.parseSpecify_policy (s : State) (i : Nat) (b : Byte) : (s.parseSpecify i b).policy = s.policy := by
  unfold State.parseSpecify; split <;> rfl
@[simp] theorem State.parseSpecify_dout (s : State) (i : Nat) (b : Byte) : (s.parseSpecify i b).dout = s.dout := by
  unfold State.parseSpecify; split <;> rfl
@[simp] theorem State.parseSpecify_inbox (s : State) (i : Nat) (b : Byte) : (s.parseSpecify i b).inbox = s.inbox := by
  unfold State.parseSpecify; split <;> rfl

@[simp] theorem State.parseStandard_phase (s : State) (c : Bool) (i : Nat) (b : Byte) : (s.parseStandard c i b).phase = s.phase := by
  unfold State.parseStandard; split <;> rfl
@[simp] theorem State.parseStandard_cmdIndex (s : State) (c : Bool) (i : Nat) (b : Byte) : (s.parseStandard c i b).cmdIndex = s.cmdIndex := by
  unfold State.parseStandard; split <;> rfl
@[simp] theorem State.parseStandard_comm (s : State) (c : Bool) (i : Nat) (b : Byte) : (s.parseStandard c i b).comm = s.comm := by
  unfold State.parseStandard; split <;> rfl
@[simp] theorem State.parseStandard_res (s : State) (c : Bool) (i : Nat) (b : Byte) : (s.parseStandard c i b).res = s.res := by
  unfold State.parseStandard; split <;> rfl
@[simp] theorem State.parseStandard_xbuf (s : State) (c : Bool) (i : Nat) (b : Byte) : (s.parseStandard c i b).xbuf = s.xbuf := by
  unfold State.parseStandard; split <;> rfl
@[simp] theorem State.parseStandard_flags (s : State) (c : Bool) (i : Nat) (b : Byte) : (s.parseStandard c i b).flags = s.flags := by
  unfold State.parseStandard; split <;> rfl
@[simp] theorem State.parseStandard_times (s : State) (c : Bool) (i : Nat) (b : Byte) : (s.parseStandard c i b).times = s.times := by
  unfold State.parseStandard; split <;> rfl
@[simp] theorem State.parseStandard_counters (s : State) (c : Bool) (i : Nat) (b : Byte) : (s.parseStandard c i b).counters = s.counters := by
  unfold State.parseStandard; split <;> rfl
@[simp] theorem State.parseStandard_bank (s : State) (c : Bool) (i : Nat) (b : Byte) : (s.parseStandard c i b).bank = s.bank := by
  unfold State.parseStandard; split <;> rfl
@[simp] theorem State.parseStandard_lastReceived (s : State) (c : Bool) (i : Nat) (b : Byte) : (s.parseStandard c i b).lastReceived = s.lastReceived := by
  unfold State.parseStandard; split <;> rfl
@[simp] theorem State.parseStandard_lastToSend (s : State) (c : Bool) (i : Nat) (b : Byte) : (s.parseStandard c i b).lastToSend = s.lastToSend := by
  unfold State.parseStandard; split <;> rfl
@[simp] theorem State.parseStandard_seek (s : State) (c : Bool) (i : Nat) (b : Byte) : (s.parseStandard c i b).seek = s.seek := by
  unfold State.parseStandard; split <;> rfl
@[simp] theorem State.parseStandard_drives (s : State) (c : Bool) (i : Nat) (b : Byte) : (s.parseStandard c i b).drives = s.drives := by
  unfold State.parseStandard; split <;> rfl
@[simp] theorem State.parseStandard_policy (s : State) (c : Bool) (i : Nat) (b : Byte) : (s.parseStandard c i b).policy = s.policy := by
  unfold State.parseStandard; split <;> rfl
@[simp] theorem State.parseStandard_dout (s : State) (c : Bool) (i : Nat) (b : Byte) : (s.parseStandard c i b).dout = s.dout := by
  unfold State.parseStandard; split <;> rfl
@[simp] theorem State.parseStandard_inbox (s : State) (c : Bool) (i : Nat) (b : Byte) : (s.parseStandard c i b).inbox = s.inbox := by
  unfold State.parseStandard; split <;> rfl

@[simp] theorem State.parseParamByte_phase (s : State) (i : Nat) (b : Byte) : (s.parseParamByte i b).phase = s.phase := by
  unfold State.parseParamByte State.parseHeadUnit; repeat' split
  all_goals simp
@[simp] theorem State.parseParamByte_cmdIndex (s : State) (i : Nat) (b : Byte) : (s.parseParamByte i b).cmdIndex = s.cmdIndex := by
  unfold State.parseParamByte State.parseHeadUnit; repeat' split
  all_goals simp
@[simp] theorem State.parseParamByte_comm (s : State) (i : Nat) (b : Byte) : (s.parseParamByte i b).comm = s.comm := by
  unfold State.parseParamByte State.parseHeadUnit; repeat' split
  all_goals simp
@[simp] theorem State.parseParamByte_res (s : State) (i : Nat) (b : Byte) : (s.parseParamByte i b).res = s.res := by
  unfold State.parseParamByte State.parseHeadUnit; repeat' split
  all_goals simp
@[simp] theorem State.parseParamByte_xbuf (s : State) (i : Nat) (b : Byte) : (s.parseParamByte i b).xbuf = s.xbuf := by
  unfold State.parseParamByte State.parseHeadUnit; repeat' split
  all_goals simp
@[simp] theorem State.parseParamByte_flags (s : State) (i : Nat) (b : Byte) : (s.parseParamByte i b).flags = s.flags := by
  unfold State.parseParamByte State.parseHeadUnit; repeat' split
  all_goals simp
@[simp] theorem State.parseParamByte_bank (s : State) (i : Nat) (b : Byte) : (s.parseParamByte i b).bank = s.bank := by
  unfold State.parseParamByte State.parseHeadUnit; repeat' split
  all_goals simp
@[simp] theorem State.parseParamByte_lastReceived (s : State) (i : Nat) (b : Byte) : (s.parseParamByte i b).lastReceived = s.lastReceived := by
  unfold State.parseParamByte State.parseHeadUnit; repeat' split
  all_goals simp
@[simp] theorem State.parseParamByte_lastToSend (s : State) (i : Nat) (b : Byte) : (s.parseParamByte i b).lastToSend = s.lastToSend := by
  unfold State.parseParamByte State.parseHeadUnit; repeat' split
  all_goals simp
@[simp] theorem State.parseParamByte_seek (s : State) (i : Nat) (b : Byte) : (s.parseParamByte i b).seek = s.seek := by
  unfold State.parseParamByte State.parseHeadUnit; repeat' split
  all_goals simp
@[simp] theorem State.parseParamByte_drives (s : State) (i : Nat) (b : Byte) : (s.parseParamByte i b).drives = s.drives := by
  unfold State.parseParamByte State.parseHeadUnit; repeat' split
  all_goals simp
@[simp] theorem State.parseParamByte_policy (s : State) (i : Nat) (b : Byte) : (s.parseParamByte i b).policy = s.policy := by
  unfold State.parseParamByte State.parseHeadUnit; repeat' split
  all_goals simp
@[simp] theorem State.parseParamByte_dout (s : State) (i : Nat) (b : Byte) : (s.parseParamByte i b).dout = s.dout := by
  unfold State.parseParamByte State.parseHeadUnit; repeat' split
  all_goals simp
@[simp] theorem State.parseParamByte_inbox (s : State) (i : Nat) (b : Byte) : (s.parseParamByte i b).inbox = s.inbox := by
  unfold State.parseParamByte State.parseHeadUnit; repeat' split
  all_goals simp

@[simp] theorem State.acceptParam_phase (s : State) (b : Byte) : (s.acceptParam b).phase = s.phase := by
  simp [State.acceptParam]
@[simp] theorem State.acceptParam_cmdIndex (s : State) (b : Byte) : (s.acceptParam b).cmdIndex = s.cmdIndex := by
  simp [State.acceptParam]
@[simp] theorem State.acceptParam_res (s : State) (b : Byte) : (s.acceptParam b).res = s.res := by
  simp [State.acceptParam]
@[simp] theorem State.acceptParam_xbuf (s : State) (b : Byte) : (s.acceptParam b).xbuf = s.xbuf := by
  simp [State.acceptParam]
@[simp] theorem State.acceptParam_flags (s : State) (b : Byte) : (s.acceptParam b).flags = s.flags := by
  simp [State.acceptParam]
@[simp] theorem State.acceptParam_bank (s : State) (b : Byte) : (s.acceptParam b).bank = s.bank := by
  simp [State.acceptParam]
@[simp] theorem State.acceptParam_lastToSend (s : State) (b : Byte) : (s.acceptParam b).lastToSend = s.lastToSend := by
  simp [State.acceptParam]
@[simp] theorem State.acceptParam_seek (s : State) (b : Byte) : (s.acceptParam b).seek = s.seek := by
  simp [State.acceptParam]
@[simp] theorem State.acceptParam_drives (s : State) (b : Byte) : (s.acceptParam b).drives = s.drives := by
  simp [State.acceptParam]
@[simp] theorem State.acceptParam_policy (s : State) (b : Byte) : (s.acceptParam b).policy = s.policy := by
  simp [State.acceptParam]
@[simp] theorem State.acceptParam_dout (s : State) (b : Byte) : (s.acceptParam b).dout = s.dout := by
  simp [State.acceptParam]
@[simp] theorem State.acceptParam_inbox (s : State) (b : Byte) : (s.acceptParam b).inbox = s.inbox := by
  simp [State.acceptParam]

/-! ## Fields written -/

@[simp] theorem State.commit_res_bytes (s : State) : s.commit.res.bytes = standardResult s.bank s.p := rfl
@[simp] theorem State.commit_res_counter (s : State) : s.commit.res.counter = s.res.counter := rfl
@[simp] theorem State.commit_res_length (s : State) : s.commit.res.length = s.res.length := rfl

@[simp] theorem State.raiseCondition_phase (s : State) (x : ShortCircuit) : (s.raiseCondition x).phase = .result := rfl
@[simp] theorem State.raiseCondition_bank (s : State) (x : ShortCircuit) : (s.raiseCondition x).bank = s.bank.raise x := rfl
@[simp] theorem State.raiseCondition_res (s : State) (x : ShortCircuit) :
    (s.raiseCondition x).res = { s.res with bytes := standardResult (s.bank.raise x) s.p } := rfl
@[simp] theorem State.raiseCondition_xbuf (s : State) (x : ShortCircuit) :
    (s.raiseCondition x).xbuf = { s.xbuf with length := 0, counter := 0 } := rfl

theorem State.serve_xbuf (s : State) : s.serve.xbuf = { s.xbuf with length := s.xbuf.wr, counter := s.xbuf.wr } := by
  unfold State.serve; split
  · rfl
  · have : s.xbuf.wr = 0 := by omega
    simp [this]
theorem State.serve_phase (s : State) : s.serve.phase = if s.xbuf.wr > 0 then .execution else .result := by
  unfold State.serve; split <;> rfl
@[simp] theorem State.finish_xbuf (s : State) (t : Track) (i : Nat) :
    (s.finish t i).xbuf = { s.xbuf with length := s.xbuf.wr, counter := s.xbuf.wr } := by
  simp [State.finish, State.serve_xbuf]
@[simp] theorem State.finish_phase (s : State) (t : Track) (i : Nat) :
    (s.finish t i).phase = if s.xbuf.wr > 0 then .execution else .result := by
  simp [State.finish, State.serve_phase]
theorem State.finish_res (s : State) (t : Track) (i : Nat) :
    (s.finish t i).res = { s.res with bytes := standardResult (s.advance t i).bank (s.advance t i).p } := by
  simp [State.finish, State.commit]
theorem State.finish_bank (s : State) (t : Track) (i : Nat) : (s.finish t i).bank = (s.advance t i).bank := by
  simp [State.finish]
theorem State.finish_p (s : State) (t : Track) (i : Nat) : (s.finish t i).p = (s.advance t i).p := by
  simp [State.finish]

@[simp] theorem State.tick_counters (s : State) :
    s.tick.counters = ⟨s.counters.srt - 1, s.counters.hut - 1, s.counters.hlt - 1, s.counters.index - 1⟩ := rfl

@[simp] theorem State.withOperands_flags (s : State) (f : CommandFlags) (q : CommandParameters) :
    (s.withOperands f q).flags = f := rfl
@[simp] theorem State.withOperands_p (s : State) (f : CommandFlags) (q : CommandParameters) : (s.withOperands f q).p = q := rfl

@[simp] theorem State.acceptCommandByte_phase (s : State) (b : Byte) : (s.acceptCommandByte b).phase = .command := rfl
@[simp] theorem State.acceptCommandByte_cmdIndex (s : State) (b : Byte) : (s.acceptCommandByte b).cmdIndex = selectIndex b := rfl
@[simp] theorem State.acceptCommandByte_lastReceived (s : State) (b : Byte) : (s.acceptCommandByte b).lastReceived = b := rfl
@[simp] theorem State.acceptCommandByte_p (s : State) (b : Byte) : (s.acceptCommandByte b).p = CommandParameters.zero := rfl
@[simp] theorem State.acceptCommandByte_flags (s : State) (b : Byte) :
    (s.acceptCommandByte b).flags = ⟨mtOf b, mfOf b, skOf b⟩ := rfl
@[simp] theorem State.acceptCommandByte_comm (s : State) (b : Byte) :
    (s.acceptCommandByte b).comm = { s.comm with counter := 0 } := rfl
@[simp] theorem State.acceptCommandByte_res (s : State) (b : Byte) :
    (s.acceptCommandByte b).res = { s.res with counter := 0, length := (descriptor (selectIndex b)).resultCount } := rfl
@[simp] theorem State.acceptCommandByte_xbuf (s : State) (b : Byte) :
    (s.acceptCommandByte b).xbuf = { s.xbuf with wr := 0, length := 0, counter := 0 } := rfl

@[simp] theorem State.acceptParam_lastReceived (s : State) (b : Byte) : (s.acceptParam b).lastReceived = b := by
  simp [State.acceptParam]
@[simp] theorem State.acceptParam_comm (s : State) (b : Byte) :
    (s.acceptParam b).comm = ⟨s.comm.bytes.setIfInBounds s.comm.counter b, s.comm.counter + 1⟩ := by
  simp [State.acceptParam]

@[simp] theorem State.seekTo_phase (s : State) (d : BitVec 2) (t : Nat) (x : SeekState) : (s.seekTo d t x).phase = .idle := rfl
@[simp] theorem State.reportSector_phase (s : State) (d : BitVec 2) (n i : Nat) (x : Sector) :
    (s.reportSector d n i x).phase = .result := rfl

/-! ## Drives and seek states by unit -/

theorem State.drive_congr {s t : State} (h : t.drives = s.drives) (d : BitVec 2) : t.drive d = s.drive d := by
  simp [State.drive, h]

theorem State.seekState_congr {s t : State} (h : t.seek = s.seek) (d : BitVec 2) : t.seekState d = s.seekState d := by
  simp [State.seekState, h]

@[simp] theorem State.drive_setDriveRecord_self (s : State) (d : BitVec 2) (r : DriveRecord) :
    (s.setDriveRecord d r).drive d = r := by
  simp [State.drive, State.setDriveRecord]

theorem State.drive_setDriveRecord_other (s : State) {d e : BitVec 2} (r : DriveRecord) (h : e ≠ d) :
    (s.setDriveRecord d r).drive e = s.drive e := by
  have hne : d.toNat ≠ e.toNat := fun h' => h (BitVec.eq_of_toNat_eq h'.symm)
  simp [State.drive, State.setDriveRecord, hne]

@[simp] theorem State.seekState_setSeekState_self (s : State) (d : BitVec 2) (x : SeekState) :
    (s.setSeekState d x).seekState d = x := by
  simp [State.seekState, State.setSeekState]

theorem State.seekState_setSeekState_other (s : State) {d e : BitVec 2} (x : SeekState) (h : e ≠ d) :
    (s.setSeekState d x).seekState e = s.seekState e := by
  have hne : d.toNat ≠ e.toNat := fun h' => h (BitVec.eq_of_toNat_eq h'.symm)
  simp [State.seekState, State.setSeekState, hne]

/-- Only unit 0 is ever ready (R26). -/
theorem State.unit_of_isReady {s : State} {d : BitVec 2} (h : s.isReady d = true) : d = 0 := by
  unfold State.isReady at h
  simp only [Bool.and_eq_true, beq_iff_eq] at h
  exact h.1.1

end Sys2Proof.Machine
end

