-- ==== Sys2Proof/Laws/Memory.lean ====
section
/-! SUPPORT. The laws of the execution buffer's memory: every operation keeps the canonical form, a read after a write, and what a
list of written bytes reads as. -/

namespace Sys2Proof.Machine

theorem Memory.wf_nil : Memory.wf [] := by simp [Memory.wf]

theorem Memory.wf_tail {c : Host.Cell} {m : Memory} (h : Memory.wf (c :: m)) : Memory.wf m :=
  ⟨(List.pairwise_cons.1 h.1).2, fun x hx => h.2 x (List.mem_cons_of_mem c hx)⟩

theorem Memory.wf_cons {c : Host.Cell} {m : Memory} :
    Memory.wf (c :: m) ↔ (∀ x ∈ m, c.1 < x.1) ∧ c.2 ≠ unlistedByte ∧ Memory.wf m := by
  simp only [Memory.wf, List.pairwise_cons, List.forall_mem_cons]
  tauto

/-- A written memory lists no address but the old ones and the written one. -/
theorem Memory.mem_write {m : Memory} {a : Nat} {v : Byte} {x : Host.Cell} (h : x ∈ m.write a v) :
    x ∈ m ∨ (x = (a, v) ∧ v ≠ unlistedByte) := by
  induction m with
  | nil =>
    unfold Memory.write at h
    split at h <;> simp_all
  | cons c rest ih =>
    unfold Memory.write at h
    split at h
    · split at h <;> (simp_all; try tauto)
    · split at h
      · split at h <;> (simp_all; try tauto)
      · simp only [List.mem_cons] at h
        rcases h with h | h
        · simp [h]
        · rcases ih h with h | h <;> simp [h]

/-- A write keeps the canonical form. -/
theorem Memory.write_wf {m : Memory} (h : Memory.wf m) (a : Nat) (v : Byte) : Memory.wf (m.write a v) := by
  induction m with
  | nil =>
    unfold Memory.write
    split <;> simp_all [Memory.wf]
  | cons c rest ih =>
    obtain ⟨hlt, hne, hrest⟩ := Memory.wf_cons.1 h
    unfold Memory.write
    split
    · split
      · exact h
      · rename_i hk hv
        refine Memory.wf_cons.2 ⟨?_, hv, h⟩
        intro x hx
        rcases List.mem_cons.1 hx with rfl | hx
        · exact hk
        · exact Nat.lt_trans hk (hlt x hx)
    · split
      · split
        · exact hrest
        · rename_i hk hv
          exact Memory.wf_cons.2 ⟨fun x hx => hk ▸ hlt x hx, hv, hrest⟩
      · refine Memory.wf_cons.2 ⟨?_, hne, ih hrest⟩
        intro x hx
        rcases Memory.mem_write hx with hx | ⟨rfl, -⟩
        · exact hlt x hx
        · show c.1 < a
          omega

/-- An address below every listed one reads as unlisted. -/
theorem Memory.read_below {m : Memory} {a : Nat} (h : ∀ x ∈ m, a < x.1) : m.read a = unlistedByte := by
  induction m with
  | nil => rfl
  | cons c rest ih =>
    have hc := h c List.mem_cons_self
    unfold Memory.read
    rw [if_neg (by omega)]
    exact ih fun x hx => h x (List.mem_cons_of_mem c hx)

/-- A read after a write: the written byte at its address, every other address as before. -/
theorem Memory.read_write {m : Memory} (h : Memory.wf m) (a b : Nat) (v : Byte) :
    (m.write a v).read b = if b = a then v else m.read b := by
  induction m with
  | nil =>
    unfold Memory.write
    split <;> simp_all [Memory.read, eq_comm]
  | cons c rest ih =>
    obtain ⟨hlt, hne, hrest⟩ := Memory.wf_cons.1 h
    have hbelow : ∀ d, d ≤ c.1 → Memory.read rest d = unlistedByte :=
      fun d hd => Memory.read_below fun x hx => Nat.lt_of_le_of_lt hd (hlt x hx)
    unfold Memory.write
    split
    · rename_i hk
      by_cases hb : b = a
      · subst hb
        split
        · rename_i hv
          have : c.1 ≠ b := by omega
          simp [Memory.read, this, hv, hbelow b (Nat.le_of_lt hk)]
        · simp [Memory.read]
      · split
        · simp
        · simp [Memory.read, Ne.symm hb]
    · split
      · rename_i hk
        subst hk
        by_cases hb : b = c.1
        · subst hb
          split
          · rename_i hv
            simp [hv, hbelow c.1 (Nat.le_refl _)]
          · simp [Memory.read]
        · split <;> simp [Memory.read, Ne.symm hb]
      · rename_i hk hk'
        by_cases hb : c.1 = b
        · have : b ≠ a := by omega
          simp [Memory.read, hb, this]
        · simp [Memory.read, hb, ih hrest]

/-- A list of bytes written keeps the canonical form. -/
theorem Memory.writeList_wf {m : Memory} (h : Memory.wf m) (a : Nat) (data : List Byte) : Memory.wf (m.writeList a data) := by
  induction data generalizing m a with
  | nil => exact h
  | cons b bs ih => exact ih (Memory.write_wf h a b) (a + 1)

/-- What a list of written bytes reads as. -/
theorem Memory.read_writeList {m : Memory} (h : Memory.wf m) (a : Nat) (data : List Byte) (k : Nat) :
    (m.writeList a data).read k = if a ≤ k ∧ k < a + data.length then data.getD (k - a) unlistedByte else m.read k := by
  induction data generalizing m a with
  | nil =>
    have : ¬(a ≤ k ∧ k < a + 0) := by omega
    simp only [Memory.writeList, List.length_nil, if_neg this]
  | cons b bs ih =>
    unfold Memory.writeList
    rw [ih (Memory.write_wf h a b), Memory.read_write h, List.length_cons]
    by_cases hk : k = a
    · subst hk
      simp
    · by_cases hin : a + 1 ≤ k ∧ k < a + 1 + bs.length
      · have h1 : a ≤ k ∧ k < a + (bs.length + 1) := by omega
        have h2 : k - a = (k - (a + 1)) + 1 := by omega
        rw [if_pos hin, if_pos h1, h2, List.getD_cons_succ]
      · have h1 : ¬(a ≤ k ∧ k < a + (bs.length + 1)) := by omega
        rw [if_neg hin, if_neg h1, if_neg hk]

/-- A list of bytes written lists no address outside the old ones and the written range. -/
theorem Memory.mem_writeList {m : Memory} {a : Nat} {data : List Byte} {x : Host.Cell} (h : x ∈ m.writeList a data) :
    x ∈ m ∨ (a ≤ x.1 ∧ x.1 < a + data.length) := by
  induction data generalizing m a with
  | nil => exact .inl h
  | cons b bs ih =>
    rcases ih h with h | h
    · rcases Memory.mem_write h with h | ⟨rfl, -⟩
      · exact .inl h
      · exact .inr (by simp)
    · exact .inr (by simp only [List.length_cons]; omega)

/-! ## The execution buffer -/

/-- An execution buffer's memory is canonical and inside its 32768 addresses. -/
def ExecBuffer.ok (x : ExecBuffer) : Prop := Memory.wf x.mem ∧ ∀ c ∈ x.mem, c.1 < execBufSize

theorem ExecBuffer.ok_clear (x : ExecBuffer) : x.clear.ok := ⟨Memory.wf_nil, by simp [ExecBuffer.clear]⟩

theorem ExecBuffer.ok_append {x : ExecBuffer} (h : x.ok) {data : List Byte} (hfit : x.overflows data = false) :
    (x.append data).ok := by
  refine ⟨Memory.writeList_wf h.1 _ _, fun c hc => ?_⟩
  rcases Memory.mem_writeList hc with hc | hc
  · exact h.2 c hc
  · simp only [ExecBuffer.overflows, decide_eq_false_iff_not] at hfit
    omega

@[simp] theorem ExecBuffer.append_wr (x : ExecBuffer) (data : List Byte) : (x.append data).wr = x.wr + data.length := rfl
@[simp] theorem ExecBuffer.append_length (x : ExecBuffer) (data : List Byte) : (x.append data).length = x.length := rfl
@[simp] theorem ExecBuffer.append_counter (x : ExecBuffer) (data : List Byte) : (x.append data).counter = x.counter := rfl
@[simp] theorem ExecBuffer.clear_wr (x : ExecBuffer) : x.clear.wr = 0 := rfl
@[simp] theorem ExecBuffer.clear_mem (x : ExecBuffer) : x.clear.mem = [] := rfl
@[simp] theorem ExecBuffer.clear_length (x : ExecBuffer) : x.clear.length = x.length := rfl
@[simp] theorem ExecBuffer.clear_counter (x : ExecBuffer) : x.clear.counter = x.counter := rfl

/-- The buffer holds exactly the bytes `data`, below its write cursor. -/
def ExecBuffer.holds (x : ExecBuffer) (data : List Byte) : Prop :=
  Memory.wf x.mem ∧ x.wr = data.length ∧ Memory.holds x.mem data

theorem ExecBuffer.holds_clear (x : ExecBuffer) : x.clear.holds [] :=
  ⟨Memory.wf_nil, rfl, fun _ => by simp [Memory.read]⟩

/-- Appending bytes to a buffer that holds `old` makes it hold `old` and then the bytes (R38). -/
theorem ExecBuffer.holds_append {x : ExecBuffer} {old : List Byte} (h : x.holds old) (data : List Byte) :
    (x.append data).holds (old ++ data) := by
  obtain ⟨hwf, hwr, hread⟩ := h
  refine ⟨Memory.writeList_wf hwf _ _, by simp [hwr], fun k => ?_⟩
  simp only [ExecBuffer.append, Memory.read_writeList hwf, hwr, hread k]
  by_cases h1 : k < old.length
  · rw [if_neg (by omega)]
    simp [List.getD_eq_getElem?_getD, List.getElem?_append_left h1]
  · simp only [List.getD_eq_getElem?_getD, List.getElem?_append_right (Nat.le_of_not_lt h1)]
    by_cases h2 : k < old.length + data.length
    · rw [if_pos (by omega)]
    · rw [if_neg (by omega), List.getElem?_eq_none (by omega), List.getElem?_eq_none (by omega)]

end Sys2Proof.Machine
end

