-- ==== Sys2Proof/Laws/Read.lean ====
section
/-! SUPPORT. What the shared procedures of the read family can do, said once: the sector search, the preamble, the sector loop as
one induction principle, the loop's bound, the diagnostic loop. -/

namespace Sys2Proof.Machine

/-! ## The sector search (R79) -/

theorem findSector_eq_none {l : List Sector} {r : Byte} : findSector l r = none ↔ ∀ x ∈ l, x.r ≠ r := by
  induction l with
  | nil => simp [findSector]
  | cons y ys ih =>
    unfold findSector
    by_cases h : y.r = r <;> simp [h, ih]

theorem findSector_append {pre post : List Sector} {x : Sector} {r : Byte} (hpre : ∀ y ∈ pre, y.r ≠ r) (hx : x.r = r) :
    findSector (pre ++ x :: post) r = some (pre.length, x) := by
  induction pre with
  | nil => simp [findSector, hx]
  | cons y ys ih =>
    have hy := hpre y List.mem_cons_self
    simp [findSector, hy, ih fun z hz => hpre z (List.mem_cons_of_mem y hz)]

theorem findSector_eq_some {l : List Sector} {r : Byte} {i : Nat} {x : Sector} (h : findSector l r = some (i, x)) :
    ∃ pre post, l = pre ++ x :: post ∧ pre.length = i ∧ x.r = r ∧ ∀ y ∈ pre, y.r ≠ r := by
  induction l generalizing i with
  | nil => simp [findSector] at h
  | cons y ys ih =>
    unfold findSector at h
    split at h
    · rename_i hy
      obtain ⟨rfl, rfl⟩ : 0 = i ∧ y = x := by simpa using h
      exact ⟨[], ys, rfl, rfl, hy, by simp⟩
    · rename_i hy
      simp only [Option.map_eq_some_iff, Prod.exists, Prod.mk.injEq] at h
      obtain ⟨j, z, hz, rfl, rfl⟩ := h
      obtain ⟨pre, post, rfl, rfl, hr, hpre⟩ := ih hz
      exact ⟨y :: pre, post, rfl, rfl, hr, by simpa [hy] using hpre⟩

theorem findSector_mem {l : List Sector} {r : Byte} {i : Nat} {x : Sector} (h : findSector l r = some (i, x)) : x ∈ l := by
  obtain ⟨pre, post, rfl, -⟩ := findSector_eq_some h
  simp

/-! ## Frames -/

theorem ReadFrame.refl (s : State) : ReadFrame s s := by constructor <;> rfl

theorem ReadFrame.trans {s t u : State} (h : ReadFrame s t) (k : ReadFrame t u) : ReadFrame s u where
  cmdIndex := k.cmdIndex.trans h.cmdIndex
  comm := k.comm.trans h.comm
  resCounter := k.resCounter.trans h.resCounter
  resLength := k.resLength.trans h.resLength
  times := k.times.trans h.times
  counters := k.counters.trans h.counters
  st3 := k.st3.trans h.st3
  msr := k.msr.trans h.msr
  lastReceived := k.lastReceived.trans h.lastReceived
  lastToSend := k.lastToSend.trans h.lastToSend
  seek := k.seek.trans h.seek
  driveIndex := k.driveIndex.trans h.driveIndex
  policy := k.policy.trans h.policy
  dout := k.dout.trans h.dout
  inbox := k.inbox.trans h.inbox

theorem StatusBank.raise_st3 (b : StatusBank) (x : ShortCircuit) : (b.raise x).st3 = b.st3 := by cases x <;> rfl
theorem StatusBank.raise_msr (b : StatusBank) (x : ShortCircuit) : (b.raise x).msr = b.msr := by cases x <;> rfl

theorem ReadFrame.raiseCondition (s : State) (x : ShortCircuit) : ReadFrame s (s.raiseCondition x) := by
  constructor <;> first | rfl | simp [StatusBank.raise_st3, StatusBank.raise_msr]

theorem State.takeSector_st3 (s : State) (w : Bool) (x : Sector) : (s.takeSector w x).1.bank.st3 = s.bank.st3 := by
  simp only [State.takeSector]
  repeat' split
  all_goals rfl

theorem State.takeSector_msr (s : State) (w : Bool) (x : Sector) : (s.takeSector w x).1.bank.msr = s.bank.msr := by
  simp only [State.takeSector]
  repeat' split
  all_goals rfl

@[simp] theorem State.takeSector_xbuf (s : State) (w : Bool) (x : Sector) :
    (s.takeSector w x).1.xbuf = s.xbuf.append x.data := rfl

theorem ReadFrame.takeSector (s : State) (w : Bool) (x : Sector) : ReadFrame s (s.takeSector w x).1 := by
  constructor <;> first | rfl | simp [State.takeSector_st3, State.takeSector_msr]

theorem State.advance_st3 (s : State) (t : Track) (i : Nat) : (s.advance t i).bank.st3 = s.bank.st3 := by
  unfold State.advance; split <;> rfl

theorem State.advance_msr (s : State) (t : Track) (i : Nat) : (s.advance t i).bank.msr = s.bank.msr := by
  unfold State.advance; split <;> rfl

theorem ReadFrame.finish (s : State) (t : Track) (i : Nat) : ReadFrame s (s.finish t i) := by
  constructor <;> simp [State.finish_res, State.finish_bank, State.advance_st3, State.advance_msr]

/-! ## The preamble (R78) -/

/-- The state the preamble works in: ST0 to ST2 cleared, the execution buffer cleared. -/
def State.prepared (s : State) : State := { s with bank := s.bank.clear, xbuf := s.xbuf.clear }

/-- The state the preamble hands on: also the size rule applied. -/
def State.sized (s : State) : State := { s.prepared with p := s.p.computeSizes }

theorem ReadFrame.prepared (s : State) : ReadFrame s s.prepared := by constructor <;> rfl
theorem ReadFrame.sized (s : State) : ReadFrame s s.sized := by constructor <;> rfl

theorem State.isReady_congr {s t : State} (h : t.drives = s.drives) (d : BitVec 2) : t.isReady d = s.isReady d := by
  simp [State.isReady, State.drive_congr h]

theorem State.trackUnderHead_congr {s t : State} (h : t.drives = s.drives) (d : BitVec 2) :
    t.trackUnderHead d = s.trackUnderHead d := by
  simp [State.trackUnderHead, State.lookupTrack, State.currentTrack, State.drive_congr h]

theorem State.trackUnderHead_sectors {s : State} {d : BitVec 2} {t : Track} (h : s.trackUnderHead d = some t) :
    t.sectors ≠ [] := by
  unfold State.trackUnderHead at h
  split at h
  · split at h
    · simp at h
    · rename_i hne
      obtain rfl := Option.some.inj h
      simpa using hne
  · simp at h

/-- The three ways the preamble ends (R78, R112). -/
theorem State.readPreamble_eq (s : State) :
    s.readPreamble =
      if s.isReady s.p.us then
        match s.trackUnderHead s.p.us with
        | some t => .ok (s.sized, t)
        | none => .error (s.sized.raiseCondition .trackNotFound)
      else .error (s.prepared.raiseCondition .notReady) := by
  have h1 : ∀ d, (s.prepared).isReady d = s.isReady d := fun d => State.isReady_congr rfl d
  have h2 : ∀ d, (s.sized).trackUnderHead d = s.trackUnderHead d := fun d => State.trackUnderHead_congr rfl d
  rw [← h1, ← h2]
  rfl

/-! ## The sector loop (R81) -/

/-- `P.R <- P.R +8 1`. -/
def State.nextId (s : State) : State := { s with p := { s.p with r := s.p.r + 1 } }

theorem ReadFrame.nextId (s : State) : ReadFrame s s.nextId := by constructor <;> rfl

/-- The sector loop's induction, packaged: a property that the advance of the id and the taking of a fitting sector keep holds
of the state in which the loop ends, and these are the ways it ends. -/
theorem State.readLoop_keeps {P : State → Prop} (w : Bool) (t : Track)
    (hnext : ∀ s, P s → P s.nextId)
    (htake : ∀ s x, x ∈ t.sectors → P s → s.xbuf.overflows x.data = false → P (s.takeSector w x).1)
    (n : Nat) (s : State) (h : P s) :
    (∃ u, P u ∧ s.readLoop w t n = .next (u.raiseCondition .sectorNotFound)) ∨
    (∃ u i, P u ∧ i < t.sectors.length ∧ s.readLoop w t n = .next (u.finish t i)) ∨
    s.readLoop w t n = .refused .execBufferOverflow ∨ s.readLoop w t n = .fault .readLoopBound := by
  induction n generalizing s with
  | zero =>
    unfold State.readLoop
    split
    · exact .inl ⟨s, h, rfl⟩
    · rename_i i x hf
      have hi : i < t.sectors.length := by
        obtain ⟨pre, post, hl, rfl, -⟩ := findSector_eq_some hf
        simp [hl]
      split
      · split
        · exact .inr (.inl ⟨s, i, h, hi, rfl⟩)
        · exact .inr (.inr (.inr rfl))
      · split
        · exact .inr (.inr (.inl rfl))
        · rename_i hov
          have ht := htake s x (findSector_mem hf) h (by simpa using hov)
          simp only
          split
          · exact .inr (.inl ⟨_, i, ht, hi, rfl⟩)
          · exact .inr (.inr (.inr rfl))
  | succ n ih =>
    unfold State.readLoop
    split
    · exact .inl ⟨s, h, rfl⟩
    · rename_i i x hf
      have hi : i < t.sectors.length := by
        obtain ⟨pre, post, hl, rfl, -⟩ := findSector_eq_some hf
        simp [hl]
      split
      · split
        · exact .inr (.inl ⟨s, i, h, hi, rfl⟩)
        · exact ih s.nextId (hnext s h)
      · split
        · exact .inr (.inr (.inl rfl))
        · rename_i hov
          have ht := htake s x (findSector_mem hf) h (by simpa using hov)
          simp only
          split
          · exact .inr (.inl ⟨_, i, ht, hi, rfl⟩)
          · exact ih (s.takeSector w x).1.nextId (hnext _ ht)

theorem State.takeSector_r (s : State) (w : Bool) (x : Sector) : (s.takeSector w x).1.p.r = s.p.r := by
  simp only [State.takeSector]; split <;> rfl

/-- The end-of-track id changes only on a sector that ends the loop. -/
theorem State.takeSector_eot (s : State) (w : Bool) (x : Sector) (h : (s.takeSector w x).2 ≠ true) :
    (s.takeSector w x).1.p.eot = s.p.eot := by
  have hc : ¬(!s.flags.sk && x.mismatch w) = true := fun hc => h (by simp only [State.takeSector, hc, Bool.or_true])
  simp only [State.takeSector, if_neg hc]

/-- With at least as many passes left as ids up to the end-of-track id, the loop ends before its bound (R81, termination). -/
theorem State.readLoop_ne_fault (w : Bool) (t : Track) (n : Nat) (s : State) (h : (s.p.eot - s.p.r).toNat ≤ n) (f : Fault) :
    s.readLoop w t n ≠ .fault f := by
  have hdist : ∀ a b : Byte, b ≠ a → (a - (b + 1)).toNat + 1 = (a - b).toNat := by
    intro a b hne
    have : b.toNat ≠ a.toNat := fun h => hne (BitVec.eq_of_toNat_eq h)
    have h1 := a.isLt
    have h2 := b.isLt
    have h3 : (1 : Byte).toNat = 1 := rfl
    simp only [BitVec.toNat_sub, BitVec.toNat_add, h3]
    omega
  induction n generalizing s with
  | zero =>
    have heq : s.p.r = s.p.eot := by
      by_contra hne
      have := hdist s.p.eot s.p.r hne
      omega
    unfold State.readLoop
    split
    · simp
    · split
      · simp
      · split
        · simp
        · rename_i x _ _ _
          simp only
          split
          · simp
          · rename_i hend
            rw [not_or] at hend
            exact absurd (by rw [State.takeSector_r, State.takeSector_eot _ _ _ hend.2, heq]) hend.1
  | succ n ih =>
    unfold State.readLoop
    split
    · simp
    · split
      · split
        · simp
        · rename_i hne
          refine ih _ ?_
          have := hdist s.p.eot s.p.r hne
          simp only
          omega
      · split
        · simp
        · simp only
          split
          · simp
          · rename_i hend
            rw [not_or] at hend
            refine ih _ ?_
            have hne : s.p.r ≠ s.p.eot := by
              rw [State.takeSector_r, State.takeSector_eot _ _ _ hend.2] at hend
              exact hend.1
            have := hdist s.p.eot s.p.r hne
            simp only [State.takeSector_r, State.takeSector_eot _ _ _ hend.2]
            omega

/-- A pass over a skipped sector. -/
theorem State.readLoop_skip {w : Bool} {t : Track} {i : Nat} {x : Sector} {s : State} (hf : findSector t.sectors s.p.r = some (i, x))
    (hs : (s.flags.sk && x.mismatch w) = true) :
    (s.p.r = s.p.eot → ∀ n, s.readLoop w t n = .next (s.finish t i)) ∧
    (s.p.r ≠ s.p.eot → ∀ n, s.readLoop w t (n + 1) = s.nextId.readLoop w t n) := by
  constructor <;> intro h n <;> (conv_lhs => unfold State.readLoop) <;> rw [hf] <;> simp only [hs, if_true]
  · rw [if_pos h]
  · rw [if_neg h]
    rfl

/-- A pass over a copied sector. -/
theorem State.readLoop_take {w : Bool} {t : Track} {i : Nat} {x : Sector} {s : State} (hf : findSector t.sectors s.p.r = some (i, x))
    (hs : (s.flags.sk && x.mismatch w) = false) (hov : s.xbuf.overflows x.data = false) :
    (((s.takeSector w x).1.p.r = (s.takeSector w x).1.p.eot ∨ (s.takeSector w x).2 = true) →
      ∀ n, s.readLoop w t n = .next ((s.takeSector w x).1.finish t i)) ∧
    (¬((s.takeSector w x).1.p.r = (s.takeSector w x).1.p.eot ∨ (s.takeSector w x).2 = true) →
      ∀ n, s.readLoop w t (n + 1) = (s.takeSector w x).1.nextId.readLoop w t n) := by
  constructor <;> intro h n <;> (conv_lhs => unfold State.readLoop) <;> rw [hf] <;> simp only [hs, hov, Bool.false_eq_true, if_false]
  · rw [if_pos h]
  · rw [if_neg h]
    rfl

/-- A loop that has not met its bound gives the same with more passes. -/
theorem State.readLoop_succ (w : Bool) (t : Track) (n : Nat) (s : State) (h : ∀ f, s.readLoop w t n ≠ .fault f) :
    s.readLoop w t (n + 1) = s.readLoop w t n := by
  induction n generalizing s with
  | zero =>
    unfold State.readLoop at h ⊢
    split
    · rfl
    · rename_i hf
      rw [hf] at h
      dsimp only at h ⊢
      split at h
      · split at h
        · rename_i hs he; rw [if_pos hs, if_pos he, if_pos hs, if_pos he]
        · exact absurd rfl (h _)
      · split at h
        · rename_i hs ho; rw [if_neg hs, if_pos ho, if_neg hs, if_pos ho]
        · split at h
          · rename_i hs ho he; rw [if_neg hs, if_neg ho, if_pos he, if_neg hs, if_neg ho, if_pos he]
          · exact absurd rfl (h _)
  | succ n ih =>
    unfold State.readLoop at h
    conv_lhs => unfold State.readLoop
    conv_rhs => unfold State.readLoop
    split
    · rfl
    · rename_i hf
      rw [hf] at h
      dsimp only at h ⊢
      split at h
      · split at h
        · rename_i hs he; rw [if_pos hs, if_pos he, if_pos hs, if_pos he]
        · rename_i hs he; rw [if_pos hs, if_neg he, if_pos hs, if_neg he]; exact ih _ h
      · split at h
        · rename_i hs ho; rw [if_neg hs, if_pos ho, if_neg hs, if_pos ho]
        · split at h
          · rename_i hs ho he; rw [if_neg hs, if_neg ho, if_pos he, if_neg hs, if_neg ho, if_pos he]
          · rename_i hs ho he; rw [if_neg hs, if_neg ho, if_neg he, if_neg hs, if_neg ho, if_neg he]; exact ih _ h

/-! ## READ_DIAGNOSTIC's loop (R85) -/

/-- ND set. -/
def StatusBank.noData (b : StatusBank) : StatusBank := { b with st1 := setBits b.st1 st1ND }

theorem StatusBank.noData_noData (b : StatusBank) : b.noData.noData = b.noData := by
  simp [StatusBank.noData, setBits, BitVec.or_assoc]

/-- The diagnostic loop copies every sector, or overflows, and sets ND iff some sector differs from the requested CHRN. -/
theorem State.diagnosticLoop_spec (l : List Sector) (s : State) (old : List Byte) (h : s.xbuf.holds old) :
    (s.xbuf.wr + totalData l ≤ execBufSize →
      ∃ x, x.holds (old ++ allData l) ∧ x.length = s.xbuf.length ∧ x.counter = s.xbuf.counter ∧
        s.diagnosticLoop l =
          some { s with xbuf := x, bank := if l.any (fun y => y.differs s.p) then s.bank.noData else s.bank }) ∧
    (execBufSize < s.xbuf.wr + totalData l → s.xbuf.wr ≤ execBufSize → s.diagnosticLoop l = none) := by
  induction l generalizing s old with
  | nil =>
    refine ⟨fun _ => ⟨s.xbuf, by simpa [allData] using h, rfl, rfl, by simp [State.diagnosticLoop]⟩, fun h1 h2 => ?_⟩
    simp only [totalData, List.map_nil, List.sum_nil] at h1
    omega
  | cons y ys ih =>
    have hsum : totalData (y :: ys) = y.data.length + totalData ys := by simp [totalData]
    have hall : allData (y :: ys) = y.data ++ allData ys := by simp [allData]
    let u : State := { s with xbuf := s.xbuf.append y.data, bank := if y.differs s.p then s.bank.noData else s.bank }
    have hu := ih u (old ++ y.data) (ExecBuffer.holds_append h y.data)
    have hwr : u.xbuf.wr = s.xbuf.wr + y.data.length := rfl
    have heq : s.diagnosticLoop (y :: ys) = if s.xbuf.overflows y.data then none else u.diagnosticLoop ys := by
      conv_lhs => unfold State.diagnosticLoop
      rfl
    rw [heq, hsum, hall]
    constructor
    · intro hfit
      obtain ⟨x, hx, hlen, hcnt, heq⟩ := hu.1 (by omega)
      refine ⟨x, by simpa using hx, hlen, hcnt, ?_⟩
      have hov : s.xbuf.overflows y.data = false := by
        simp only [ExecBuffer.overflows, decide_eq_false_iff_not]; omega
      rw [hov, if_neg (by simp), heq]
      cases hd : y.differs s.p <;> cases ha : ys.any (fun z => z.differs s.p) <;>
        simp [u, hd, ha, StatusBank.noData_noData]
    · intro hbig hwr
      by_cases hov : s.xbuf.overflows y.data = true
      · rw [hov, if_pos rfl]
      · rw [if_neg hov]
        have hle : s.xbuf.wr + y.data.length ≤ execBufSize := by
          simp only [ExecBuffer.overflows, decide_eq_true_eq] at hov; omega
        exact hu.2 (by omega) (by omega)

/-! ## The preamble's success, and the frames of the loops -/

/-- The size rule leaves every field of `P` but DTL alone (R80). -/
theorem CommandParameters.computeSizes_fields (p : CommandParameters) :
    p.computeSizes.us = p.us ∧ p.computeSizes.side = p.side ∧ p.computeSizes.c = p.c ∧ p.computeSizes.h = p.h ∧
      p.computeSizes.r = p.r ∧ p.computeSizes.n = p.n ∧ p.computeSizes.eot = p.eot := by
  unfold CommandParameters.computeSizes
  split <;> exact ⟨rfl, rfl, rfl, rfl, rfl, rfl, rfl⟩

/-- The preamble of a ready unit with a track under its head. -/
theorem State.readPreamble_of_track {s : State} {f : CommandFlags} {p : CommandParameters} {t : Track}
    (h : s.isReady p.us = true) (ht : s.trackUnderHead p.us = some t) :
    (s.withOperands f p).readPreamble = .ok ((s.withOperands f p).sized, t) := by
  have h1 : (s.withOperands f p).isReady p.us = true := by rw [← h]; exact State.isReady_congr rfl _
  have h2 : (s.withOperands f p).trackUnderHead p.us = some t := by rw [← ht]; exact State.trackUnderHead_congr rfl _
  rw [State.readPreamble_eq, show (s.withOperands f p).p.us = p.us from rfl, if_pos h1, h2]

/-- The states the sector loop passes through, as a frame of the loop's start: nothing but `P`, ST0 to ST2, the copied bytes. -/
def State.LoopFrame (s v : State) : Prop :=
  ReadFrame s v ∧ v.drives = s.drives ∧ v.flags = s.flags ∧ ∃ old, v.xbuf.holds old

theorem State.LoopFrame.nextId {s v : State} (h : s.LoopFrame v) : s.LoopFrame v.nextId :=
  ⟨h.1.trans (ReadFrame.nextId v), h.2.1, h.2.2.1, h.2.2.2⟩

theorem State.LoopFrame.takeSector {s v : State} (h : s.LoopFrame v) (w : Bool) (x : Sector) :
    s.LoopFrame (v.takeSector w x).1 := by
  obtain ⟨h1, h2, h3, old, h4⟩ := h
  exact ⟨h1.trans (ReadFrame.takeSector _ _ _), h2, h3, _, ExecBuffer.holds_append h4 x.data⟩

/-- The diagnostic loop's frame. -/
theorem State.LoopFrame.diagnosticLoop {s : State} (l : List Sector) (v t : State) (hl : v.diagnosticLoop l = some t)
    (h : s.LoopFrame v) : s.LoopFrame t := by
  induction l generalizing v with
  | nil => exact Option.some.inj hl ▸ h
  | cons x xs ih =>
    unfold State.diagnosticLoop at hl
    split at hl
    · simp at hl
    · refine ih _ hl ?_
      obtain ⟨h1, h2, h3, old, h4⟩ := h
      refine ⟨h1.trans ?_, h2, h3, _, ExecBuffer.holds_append h4 x.data⟩
      split <;> constructor <;> rfl

end Sys2Proof.Machine
end

