-- ==== Sys2Proof/Laws/Bus.lean ====
section
/-! SUPPORT. What a step and a run can do: the step on its next call, a run cut in two, the arms of a data write, and what
accepting bytes leaves. -/

namespace Sys2Proof.Machine

theorem step_cons {s : State} {e : BusEvent} {rest : List BusEvent} (h : s.inbox = e :: rest) :
    step s = handle e { s with inbox := rest } := by
  simp [step, h]

theorem step_nil {s : State} (h : s.inbox = []) : step s = .next s := by
  simp [step, h]

theorem core_run_of_next (M : Host.Core) {k : Nat} {s t : M.State} (h : M.step s = .next t) : M.run (k + 1) s = M.run k t := by
  simp only [Host.Core.run, h]
theorem core_run_of_fault (M : Host.Core) {k : Nat} {s : M.State} {r : M.Fault} (h : M.step s = .fault r) :
    M.run (k + 1) s = .fault r := by
  simp only [Host.Core.run, h]
theorem core_run_of_refused (M : Host.Core) {k : Nat} {s : M.State} {r : M.Refusal} (h : M.step s = .refused r) :
    M.run (k + 1) s = .refused r := by
  simp only [Host.Core.run, h]

/-- `run` is the host's run of the machine. -/
theorem run_eq_core (k : Nat) (s : State) : run k s = Host.Core.run Sys2Proof.core k s := by
  induction k generalizing s with
  | zero => rfl
  | succ k ih =>
    cases h : step s with
    | next t =>
      simp only [run, h]
      exact (ih t).trans (core_run_of_next Sys2Proof.core h).symm
    | fault r =>
      simp only [run, h]
      exact (core_run_of_fault Sys2Proof.core h).symm
    | refused r =>
      simp only [run, h]
      exact (core_run_of_refused Sys2Proof.core h).symm

@[simp] theorem run_zero (s : State) : run 0 s = .next s := rfl

theorem run_succ_of_next {s t : State} {k : Nat} (h : step s = .next t) : run (k + 1) s = run k t := by
  simp [run, h]

theorem run_one (s : State) : run 1 s = step s := by
  simp only [run]
  cases step s <;> rfl

/-- A step that answers a next state takes one of these ways: no call, or the call's own effect (R4, R62). -/
theorem step_next_cases {s t : State} (h : step s = .next t) :
    (s.inbox = [] ∧ t = s) ∨ ∃ e rest, s.inbox = e :: rest ∧ handle e { s with inbox := rest } = .next t := by
  cases hin : s.inbox with
  | nil =>
    rw [step_nil hin] at h
    exact .inl ⟨rfl, (Host.Outcome.next.inj h).symm⟩
  | cons e rest =>
    rw [step_cons hin] at h
    exact .inr ⟨e, rest, rfl, h⟩

/-- A data write in Idle (R65). -/
theorem writeIdle_eq (b : Byte) (s : State) :
    writeIdle b s =
      if (descriptor (selectIndex b)).kind = .stub ∨ (descriptor (selectIndex b)).paramCount = 0 then
        exec ((s.acceptCommandByte b).fetched (opcodeOf b)) (s.acceptCommandByte b)
      else .next (s.acceptCommandByte b) := rfl

/-- A data write in Command, of a command that is no stub and whose buffer has room (R65). -/
theorem writeCommand_eq {s : State} (b : Byte) (hkind : (descriptor s.cmdIndex).kind ≠ .stub) (hroom : s.comm.counter < 9) :
    writeCommand b s =
      if s.comm.counter + 1 = (descriptor s.cmdIndex).paramCount then
        exec ((s.acceptParam b).fetched (opcodeAt s.cmdIndex)) (s.acceptParam b)
      else .next (s.acceptParam b) := by
  simp [writeCommand, hkind, hroom]

/-- The stub commands' meanings are the one stub routine (R94, R101). -/
theorem exec_stub {i : Instr} (h : (descriptor i.index).kind = .stub) (s : State) : exec i s = s.stubRoutine := by
  cases i
  case writeData => rfl
  case writeId => rfl
  case writeDeletedData => rfl
  case scanEqual => rfl
  case scanLowOrEqual => rfl
  case scanHighOrEqual => rfl
  all_goals exact CommandKind.noConfusion h

@[simp] theorem State.fetched_index (s : State) (op : BitVec 5) : (s.fetched op).index = s.cmdIndex := by
  simp [State.fetched]

/-- An accepted byte comes after the bytes accepted before it (R46, R65). -/
theorem State.accepted_acceptParam (s : State) (b : Byte) (h : s.comm.counter < 9) :
    (s.acceptParam b).accepted = s.accepted ++ [b] := by
  simp only [State.accepted, State.acceptParam_comm]
  apply List.ext_getElem?
  intro k
  rcases Nat.lt_trichotomy k s.comm.counter with hk | hk | hk
  · rw [List.getElem?_append_left (by simp; omega), List.getElem?_take_of_lt (by omega), List.getElem?_take_of_lt hk]
    simp [Vector.setIfInBounds, Nat.ne_of_gt hk]
  · subst hk
    rw [List.getElem?_append_right (by simp), List.getElem?_take_of_lt (by omega)]
    simp [Vector.setIfInBounds, Nat.min_eq_left (Nat.le_of_lt h), h]
  · rw [List.getElem?_eq_none (by simp; omega), List.getElem?_eq_none (by simp; omega)]

/-- The command whose declared bytes have been accepted is the one its entry gives for them (R72). -/
theorem State.fetched_eq (s : State) (op op' : BitVec 5) (h : s.comm.counter = (descriptor s.cmdIndex).paramCount)
    (hidx : s.cmdIndex ≠ 15 ∨ op = op') :
    s.fetched op = instrOf s.cmdIndex s.flags.mt s.flags.mf s.flags.sk op' s.accepted := by
  rw [State.accepted, h]
  exact (instrOf_take s.cmdIndex _ _ _ _ (hidx.imp_right Eq.symm)).symm

/-! ## Accepting parameter bytes -/

/-- Accepting a byte does not look at the calls still to come. -/
theorem State.acceptParam_withInbox (s : State) (l : List BusEvent) (b : Byte) :
    ({ s with inbox := l } : State).acceptParam b = { s.acceptParam b with inbox := l } := by
  obtain ⟨ph, ci, ⟨cb, n⟩, res, xb, fl, p, ti, co, ba, lr, ls, se, di, dr, po, d, ib⟩ := s
  simp only [State.acceptParam, State.parseParamByte]
  cases (descriptor ci).layout <;> match n with
    | 0 => rfl
    | 1 => rfl
    | n + 2 => rfl

/-- What accepting parameter bytes leaves alone, for any list of them. -/
structure AcceptFrame (s t : State) : Prop where
  phase : t.phase = s.phase
  cmdIndex : t.cmdIndex = s.cmdIndex
  flags : t.flags = s.flags
  res : t.res = s.res
  xbuf : t.xbuf = s.xbuf
  bank : t.bank = s.bank
  seek : t.seek = s.seek
  drives : t.drives = s.drives
  policy : t.policy = s.policy
  inbox : t.inbox = s.inbox
  lastToSend : t.lastToSend = s.lastToSend
  dout : t.dout = s.dout

theorem AcceptFrame.acceptParams (ps : List Byte) (s : State) : AcceptFrame s (s.acceptParams ps) := by
  induction ps generalizing s with
  | nil => constructor <;> rfl
  | cons b ps ih =>
    have h := ih (s.acceptParam b)
    constructor
    · exact h.phase.trans (by simp)
    · exact h.cmdIndex.trans (by simp)
    · exact h.flags.trans (by simp)
    · exact h.res.trans (by simp)
    · exact h.xbuf.trans (by simp)
    · exact h.bank.trans (by simp)
    · exact h.seek.trans (by simp)
    · exact h.drives.trans (by simp)
    · exact h.policy.trans (by simp)
    · exact h.inbox.trans (by simp)
    · exact h.lastToSend.trans (by simp)
    · exact h.dout.trans (by simp)

/-- Each accepted byte is counted. -/
theorem State.acceptParams_counter (ps : List Byte) (s : State) :
    (s.acceptParams ps).comm.counter = s.comm.counter + ps.length := by
  induction ps generalizing s with
  | nil => rfl
  | cons b ps ih =>
    refine (ih (s.acceptParam b)).trans ?_
    simp only [State.acceptParam_comm, List.length_cons]
    omega

/-- Accepted bytes stand in order after the ones accepted before (R46, R65). -/
theorem State.accepted_acceptParams (ps : List Byte) (s : State) (h : s.comm.counter + ps.length ≤ 9) :
    (s.acceptParams ps).accepted = s.accepted ++ ps := by
  induction ps generalizing s with
  | nil => simp [State.acceptParams]
  | cons b ps ih =>
    simp only [List.length_cons] at h
    refine (ih (s.acceptParam b) (by simp only [State.acceptParam_comm]; omega)).trans ?_
    rw [State.accepted_acceptParam _ _ (by omega)]
    simp

/-! ## What a data-register access can do -/

/-- A data read changes no more than the cursor it advances, the phase, and the byte sent (R64). -/
theorem busReadData_next {s t : State} (h : busReadData s = .next t) :
    t = { s with res := t.res, xbuf := t.xbuf, phase := t.phase, lastToSend := t.lastToSend, dout := t.dout } ∧
      (t.phase = s.phase ∨ s.phase = .execution ∧ t.phase = .result ∨ s.phase = .result ∧ t.phase = .idle) := by
  have hdefault : s.readDefaultByte = t →
      t = { s with res := t.res, xbuf := t.xbuf, phase := t.phase, lastToSend := t.lastToSend, dout := t.dout } ∧
      (t.phase = s.phase ∨ s.phase = .execution ∧ t.phase = .result ∨ s.phase = .result ∧ t.phase = .idle) := by
    rintro rfl
    exact ⟨rfl, .inl rfl⟩
  unfold busReadData at h
  split at h
  · rename_i hph
    split at h
    · unfold State.readExecByte at h
      simp only at h
      split at h
      · obtain rfl := Host.Outcome.next.inj h
        refine ⟨rfl, ?_⟩
        by_cases hc : s.xbuf.counter - 1 = 0 <;> simp [hc, hph]
      · simp at h
    · exact hdefault (Host.Outcome.next.inj h)
  · rename_i hph
    unfold State.readResultByte at h
    split at h
    · obtain rfl := Host.Outcome.next.inj h
      refine ⟨rfl, ?_⟩
      by_cases hc : s.res.counter + 1 = s.res.length <;> simp [hc, hph]
    · simp at h
  · exact hdefault (Host.Outcome.next.inj h)
  · exact hdefault (Host.Outcome.next.inj h)

/-- A data write that answers a next state changes nothing, accepts the byte, or accepts it and completes the command (R65). -/
theorem busWriteData_next_cases {s t : State} {b : Byte} (h : busWriteData b s = .next t) :
    t = s ∨
    (s.phase = .idle ∧ (t = s.acceptCommandByte b ∨
      ∃ op, exec ((s.acceptCommandByte b).fetched op) (s.acceptCommandByte b) = .next t)) ∨
    (s.phase = .command ∧ (t = s.acceptParam b ∨ ∃ op, exec ((s.acceptParam b).fetched op) (s.acceptParam b) = .next t)) := by
  have hstub : ∀ (u : State) op, (descriptor u.cmdIndex).kind = .stub → exec (u.fetched op) u = .next t → t = u := by
    intro u op hk h
    rw [exec_stub (by simpa using hk)] at h
    simp only [State.stubRoutine] at h
    split at h
    · simp at h
    · exact (Host.Outcome.next.inj h).symm
  simp only [busWriteData] at h
  cases hph : s.phase <;> simp only [hph] at h
  · rw [writeIdle_eq] at h
    split at h
    · exact .inr (.inl ⟨rfl, .inr ⟨_, h⟩⟩)
    · exact .inr (.inl ⟨rfl, .inl (Host.Outcome.next.inj h).symm⟩)
  · simp only [writeCommand] at h
    split at h
    · rename_i hk
      exact .inl (hstub _ _ hk h)
    · split at h
      · split at h
        · exact .inr (.inr ⟨rfl, .inr ⟨_, h⟩⟩)
        · exact .inr (.inr ⟨rfl, .inl (Host.Outcome.next.inj h).symm⟩)
      · simp at h
  · split at h
    · exact .inl (Host.Outcome.next.inj h).symm
    · rename_i hd
      exact .inl (hstub _ _ (by rwa [kind_stub_iff]) h)
  · exact .inl (Host.Outcome.next.inj h).symm

end Sys2Proof.Machine
end

