-- ==== Sys2Proof/Tests/Slice0.lean ====
section
/-! SUPPORT. The model's own tests. Expected values are the spec's (95_test_vectors.md unless another file is named) or written out
by hand from the rule cited; the last part gives, for each obligation with hypotheses, concrete data that meet them all. -/

namespace Sys2Proof.Tests

open Sys2Proof Sys2Proof.Machine

/-! ## Helpers -/

/-- What is seen of the next state. -/
def seen {α : Type} (o : Host.Outcome State Fault Refusal) (f : State → α) : Option α :=
  match o with
  | .next t => some (f t)
  | .fault _ => none
  | .refused _ => none

/-- Why an outcome is refused. -/
def refusalOf (o : Host.Outcome State Fault Refusal) : Option Refusal :=
  match o with
  | .refused r => some r
  | .next _ => none
  | .fault _ => none

/-- Why an outcome is a fault. -/
def faultOf (o : Host.Outcome State Fault Refusal) : Option Fault :=
  match o with
  | .fault r => some r
  | .next _ => none
  | .refused _ => none

/-- The reset state with drive 0 ready, its head on track 0, and a track 0 of the given sectors. -/
def withTrack (sectors : List Sector) : State :=
  { State.reset with
    drives := State.reset.drives.set 0
      { ready := true, writeProtect := false, track := 0, sectorIndex := 0, disk := some [{ number := 0, sectors := sectors }] } }

/-- A sector record `(0, 0, r, 0 | data | st1, st2)`. -/
def sec (r : Byte) (data : List Byte) (st1 st2 : Byte) : Sector :=
  { c := 0, h := 0, r := r, n := 0, data := data, st1 := st1, st2 := st2 }

/-- Disk T of section 2.5. -/
def diskT : State := withTrack [sec 1 [0xA1, 0xA2] 0 0, sec 2 [0xB1, 0xB2] 0 0x40, sec 3 [0xC1, 0xC2] 0 0]

/-- Unit 0, head 0. -/
def hu0 : HeadUnit := { pad := 0, hd := false, us := 0 }

/-- Standard operands on unit 0 with head 0, cylinder 0 and size code 0. -/
def ops (r eot dtl : Byte) : StdOperands := { hu := hu0, c := 0, h := 0, r := r, n := 0, eot := eot, gpl := 0x2A, dtl := dtl }

/-- Phase, execution length, execution bytes and result bytes. -/
def transfer (t : State) : Phase × Nat × Memory × List Byte := (t.phase, t.xbuf.length, t.xbuf.mem, t.res.bytes.toList)

/-- Phase and the used result bytes. -/
def results (t : State) : Phase × List Byte := (t.phase, t.res.bytes.toList.take t.res.length)

/-- A state in Execution of READ_DATA with four bytes to serve (P3). -/
def executing : State :=
  { withTrack [sec 1 [0x11, 0x22] 0 0, sec 2 [0x33, 0x44] 0 0] with
    phase := .execution, cmdIndex := 0, comm := { bytes := #v[0, 0, 0, 1, 0, 2, 0x2A, 2, 0], counter := 8 },
    xbuf := { mem := [(0, 0x11), (1, 0x22), (2, 0x33), (3, 0x44)], wr := 4, length := 4, counter := 4 },
    res := { bytes := #v[0, 0x80, 0, 1, 0, 1, 0], counter := 0, length := 7 } }

/-- A state in Result with one byte left of seven (P3). -/
def lastResult : State := { executing with phase := .result, xbuf := { executing.xbuf with counter := 0 },
                                           res := { executing.res with counter := 6 } }

/-- A wedged state: WRITE_DATA in Command (R101). -/
def wedged : State := { State.reset with phase := .command, cmdIndex := 4, policy := .wedge, res := { State.reset.res with length := 7 } }

/-- SEEK with its last parameter byte next (R88's worked example). -/
def seekLast : State :=
  { State.reset with phase := .command, cmdIndex := 11, comm := { State.reset.comm with counter := 1 },
                     inbox := [.write .data 0x05] }

/-- A call first. -/
def calling (e : BusEvent) (s : State) : State := { s with inbox := [e] }

/-! ## Well-formedness: the one check refuses a byte of another entry (R50, R58) -/

theorem test_wf_refuses_seek_byte_as_invalid : (Instr.invalid false false false 0x0F).wf = false := by decide
theorem test_wf_refuses_allowed_flags_as_invalid : (Instr.invalid true true true 0x06).wf = false := by decide
theorem test_wf_refuses_stub_byte_as_invalid : (Instr.invalid true true false 0x05).wf = false := by decide
theorem test_wf_accepts_disallowed_flag : (Instr.invalid true false false 0x03).wf = true := by decide
theorem test_wf_accepts_opcode_without_entry : (Instr.invalid true true true 0x1F).wf = true := by decide

/-! ## Decoding: the words of 30_encoding.md R48, R51 to R54, bit by bit -/

theorem test_decode_readData : decode [0b01000110, 0x00, 0x00, 0x00, 0x01, 0x00, 0x02, 0x2A, 0x02] =
    .ok (.readData false true false (ops 1 2 2), []) := by decide
theorem test_decode_readDeletedData : decode [0b01101100, 0b00000101, 7, 1, 3, 2, 9, 0x2A, 0xFF] =
    .ok (.readDeletedData false true true ⟨⟨0, true, 1⟩, 7, 1, 3, 2, 9, 0x2A, 0xFF⟩, []) := by decide
theorem test_decode_readDiagnostic : decode [0b01100010, 0b00000010, 7, 1, 3, 2, 9, 0x2A, 0xFF] =
    .ok (.readDiagnostic true true ⟨⟨0, false, 2⟩, 7, 1, 3, 2, 9, 0x2A, 0xFF⟩, []) := by decide
theorem test_decode_readId : decode [0b00001010, 0b11111100, 0x77] = .ok (.readId false ⟨0x1F, true, 0⟩, [0x77]) := by decide
theorem test_decode_writeData : decode [0b11000101, 0b00000011, 7, 1, 3, 2, 9, 0x2A, 0xFF] =
    .ok (.writeData true true ⟨⟨0, false, 3⟩, 7, 1, 3, 2, 9, 0x2A, 0xFF⟩, []) := by decide
theorem test_decode_writeId : decode [0b01001101, 0b00000000, 2, 9, 0x54, 0xE5] =
    .ok (.writeId true ⟨hu0, 2, 9, 0x54, 0xE5⟩, []) := by decide
theorem test_decode_writeDeletedData : decode [0b10001001, 0, 7, 1, 3, 2, 9, 0x2A, 0xFF] =
    .ok (.writeDeletedData true false ⟨hu0, 7, 1, 3, 2, 9, 0x2A, 0xFF⟩, []) := by decide
theorem test_decode_scanEqual : decode [0b01110001, 0, 7, 1, 3, 2, 9, 0x2A, 0x02] =
    .ok (.scanEqual false true true ⟨hu0, 7, 1, 3, 2, 9, 0x2A, 0x02⟩, []) := by decide
theorem test_decode_scanLowOrEqual : decode [0b10111001, 0, 7, 1, 3, 2, 9, 0x2A, 0x02] =
    .ok (.scanLowOrEqual true false true ⟨hu0, 7, 1, 3, 2, 9, 0x2A, 0x02⟩, []) := by decide
theorem test_decode_scanHighOrEqual : decode [0b11111101, 0, 7, 1, 3, 2, 9, 0x2A, 0x02] =
    .ok (.scanHighOrEqual true true true ⟨hu0, 7, 1, 3, 2, 9, 0x2A, 0x02⟩, []) := by decide
theorem test_decode_specify : decode [0b00000011, 0b11010100, 0b00100110] = .ok (.specify ⟨0xD, 4, 0x13, false⟩, []) := by decide
theorem test_decode_seek : decode [0b00001111, 0b00000110, 0x05] = .ok (.seek ⟨0, true, 2⟩ 5, []) := by decide
theorem test_decode_recalibrate : decode [0b00000111, 0b00000001] = .ok (.recalibrate ⟨0, false, 1⟩, []) := by decide
theorem test_decode_senseInterruptStatus : decode [0b00001000] = .ok (.senseInterruptStatus, []) := by decide
theorem test_decode_senseDriveStatus : decode [0b00000100, 0b00000100] = .ok (.senseDriveStatus ⟨0, true, 0⟩, []) := by decide
theorem test_decode_invalid : decode [0b00101010] = .ok (.invalid false false true 0x0A, []) := by decide
theorem test_decode_empty : decode [] = .error .noCommandByte := by decide
theorem test_decode_truncated : decode [0x0F, 0x00] = .error (.truncated 11 2 1) := by decide

/-- Section 2.1: of the 256 command bytes 61 select entries 0 to 14 and 195 select INVALID. -/
theorem test_lookup_whole_space :
    ((List.range 256).filter (fun k => selectIndex (BitVec.ofNat 8 k) != 15)).length = 61 := by decide

theorem test_encode_specify : encode (.specify ⟨0xA, 0xF, 1, true⟩) = [0x03, 0xAF, 0x03] := by decide
theorem test_encode_writeId : encode (.writeId true ⟨⟨0, true, 1⟩, 2, 9, 0x54, 0xE5⟩) = [0x4D, 0x05, 2, 9, 0x54, 0xE5] := by decide

/-- The first byte of a table word is its bits 7:0: SEEK 02, 05. -/
theorem test_decodeTableWord_seek : decodeTableWord 24 0x05020F = some (.seek ⟨0, false, 2⟩ 5) := by decide
/-- Operand bytes above the table's bits are zero. -/
theorem test_decodeTableWord_readId : decodeTableWord 8 0xFF4A = some (.readId true hu0) := by decide

/-! ## Placing a table word -/

theorem test_withFetchWord_seek : seen (step (State.reset.withFetchWord 24 0x05000F))
    (fun t => (t.phase, t.currentTrack 0, t.seekState 0, t.inbox)) = some (.idle, 5, .seeking, []) := by decide
theorem test_withFetchWord_invalid : seen (step (State.reset.withFetchWord 8 0x1F)) results = some (.result, [0x80]) := by decide
theorem test_withFetchWord_stub : refusalOf (step (State.reset.withFetchWord 8 0x45)) = some .stubCommand := by decide

/-! ## The read family (section 2.5) -/

/-- P3. -/
theorem test_readData_two_sectors :
    seen (exec (.readData false true false (ops 1 2 2)) (withTrack [sec 1 [0x11, 0x22] 0 0, sec 2 [0x33, 0x44] 0 0])) transfer =
      some (.execution, 4, [(0, 0x11), (1, 0x22), (2, 0x33), (3, 0x44)], [0x00, 0x80, 0x00, 1, 0, 1, 0]) := by decide
/-- V-RD-10, the id wraps from 255 to 0. -/
theorem test_readData_id_wraps :
    seen (exec (.readData false true false (ops 0xFF 0 1)) (withTrack [sec 0xFF [1] 0 0, sec 0 [2] 0 0])) transfer =
      some (.execution, 2, [(0, 1), (1, 2)], [0x00, 0x80, 0x00, 1, 0, 1, 0]) := by decide
/-- V-RDD-3. -/
theorem test_readDeletedData_skips_unmarked :
    seen (exec (.readDeletedData false true true (ops 1 3 2)) diskT) transfer =
      some (.execution, 2, [(0, 0xB1), (1, 0xB2)], [0x00, 0x80, 0x40, 1, 0, 1, 0]) := by decide
/-- V-RDD-2. -/
theorem test_readDeletedData_control_mark :
    seen (exec (.readDeletedData false true false (ops 1 3 2)) diskT) transfer =
      some (.execution, 2, [(0, 0xA1), (1, 0xA2)], [0x40, 0x00, 0x40, 0, 0, 2, 0]) := by decide
/-- V-RD-1. -/
theorem test_readData_control_mark :
    seen (exec (.readData false true false (ops 1 3 2)) diskT) transfer =
      some (.execution, 4, [(0, 0xA1), (1, 0xA2), (2, 0xB1), (3, 0xB2)], [0x40, 0x00, 0x40, 0, 0, 3, 0]) := by decide
/-- V-RDG-1. -/
theorem test_readDiagnostic_no_data_flag :
    seen (exec (.readDiagnostic true false (ops 1 1 2)) diskT) transfer =
      some (.execution, 6, [(0, 0xA1), (1, 0xA2), (2, 0xB1), (3, 0xB2), (4, 0xC1), (5, 0xC2)],
        [0x00, 0x84, 0x00, 1, 0, 1, 0]) := by decide
/-- V-RDG-2. -/
theorem test_readDiagnostic_full_match :
    seen (exec (.readDiagnostic true false (ops 1 1 1)) (withTrack [sec 1 [0x11] 0 0])) transfer =
      some (.execution, 1, [(0, 0x11)], [0x00, 0x80, 0x00, 1, 0, 1, 0]) := by decide
/-- V-RID-1, second command: the index wraps to 0. -/
theorem test_readId_wraps :
    seen (exec (.readId true hu0)
      ((withTrack [{ sec 0xC1 [] 0 0 with n := 2 }, { sec 0xC2 [] 0 0 with n := 2 }]).setSectorIndex 0 1))
      (fun t => (t.phase, t.res.bytes.toList, t.sectorIndex 0)) = some (.result, [0, 0, 0, 0, 0, 0xC2, 2], 0) := by decide
/-- V-RID-4. -/
theorem test_readId_unit_one :
    seen (exec (.readId true { hu0 with us := 1 }) diskT) (fun t => (t.phase, t.res.bytes.toList)) =
      some (.result, [0x48, 0, 0, 0, 0, 0, 0]) := by decide

/-! ## The stubs (section 2.6) -/

theorem test_stub_wedge_hangs :
    seen (step (calling (.write .data 0x45) { State.reset with policy := .wedge }))
      (fun t => (t.phase, t.cmdIndex, t.flags, t.comm.counter)) = some (.command, 4, ⟨false, true, false⟩, 0) := by decide
theorem test_stub_wedge_ignores_writes :
    seen (step (calling (.write .data 0x12) wedged)) (fun t => (t.phase, t.comm.counter, t.lastReceived)) =
      some (.command, 0, 0) := by decide

/-! ## SPECIFY and INVALID (section 2.3) -/

/-- V-SPC-5. -/
theorem test_specify_all_ones : seen (exec (.specify ⟨0xF, 0xF, 0x7F, true⟩) State.reset) (fun t => (t.phase, t.times)) =
    some (.idle, ⟨1, 240, 254, true⟩) := by decide
/-- V-SPC-4: zero codes are normalized to 255. -/
theorem test_specify_zero_codes : seen (exec (.specify ⟨1, 0, 0, true⟩) State.reset) (fun t => t.times) =
    some ⟨15, 255, 255, true⟩ := by decide
/-- V-INV-1. -/
theorem test_invalid : seen (step (calling (.write .data 0x1F) State.reset)) (fun t => (results t, t.bank.st0)) =
    some ((.result, [0x80]), 0x80) := by decide
/-- P4: the flags of an illegal byte stay latched. -/
theorem test_invalid_latches_flags : seen (step (calling (.write .data 0x83) State.reset)) (fun t => (t.cmdIndex, t.flags)) =
    some (15, ⟨true, false, false⟩) := by decide

/-! ## The seek family (section 2.4) -/

/-- V-SK-4. -/
theorem test_seek_unit_one : seen (exec (.seek ⟨0, false, 1⟩ 9) State.reset)
    (fun t => (t.phase, t.currentTrack 1, t.currentTrack 0, t.seekState 1, t.seekState 0)) =
      some (.idle, 9, 0, .seeking, .seekIdle) := by decide
/-- R89's worked example. -/
theorem test_recalibrate : seen (exec (.recalibrate hu0) (State.reset.setCurrentTrack 0 5))
    (fun t => (t.phase, t.currentTrack 0, t.seekState 0)) = some (.idle, 0, .recalibrating) := by decide
/-- V-SK-3, the first sense after a seek. -/
theorem test_sense_after_seek :
    seen (exec .senseInterruptStatus ((State.reset.setCurrentTrack 0 0xC8).setSeekState 0 .seeking))
      (fun t => (results t, t.seekState 0)) = some ((.result, [0x20, 0xC8]), .acknowledged) := by decide
/-- R90: the second. -/
theorem test_sense_acknowledged :
    seen (exec .senseInterruptStatus (State.reset.setSeekState 0 .acknowledged)) (fun t => (results t, t.seekState 0)) =
      some ((.result, [0xC0]), .seekIdle) := by decide
/-- V-SDS-1: 0x04 | 0x10 | 0x20 | 0x40. -/
theorem test_senseDriveStatus_all_bits :
    seen (exec (.senseDriveStatus { hu0 with hd := true })
      (diskT.setDriveRecord 0 { diskT.drive 0 with writeProtect := true })) results = some (.result, [0x74]) := by decide
/-- V-SDS-4. -/
theorem test_senseDriveStatus_unit_three :
    seen (exec (.senseDriveStatus ⟨0, true, 3⟩) diskT) results = some (.result, [0x80]) := by decide

/-! ## The bus, the tick and reset (sections 2.2, 2.7) -/

/-- V-MSR-1. -/
theorem test_msr_by_phase : [State.reset, seekLast, executing, lastResult].map
    (fun s => seen (step (calling (.read .msr) s)) (fun t => t.dout)) = [some 0x80, some 0x90, some 0xF0, some 0xD0] := by decide
/-- V-BUS-5. -/
theorem test_write_in_execution_is_ignored :
    seen (step (calling (.write .data 0x08) executing)) (fun t => (t.phase, t.xbuf.counter, t.lastReceived)) =
      some (.execution, 4, 0) := by decide
/-- V-SPC-6's third tick: HLT's counter stays at 0. -/
theorem test_tick : seen (step (calling .tick { State.reset with counters := ⟨4, 238, 0, 0⟩ })) (fun t => t.counters) =
    some ⟨3, 237, 0, 0⟩ := by decide
/-- V-RST-2: a pending seek is lost, the head stays. -/
theorem test_reset_drops_the_seek :
    seen (step (calling .reset ((State.reset.setCurrentTrack 0 5).setSeekState 0 .seeking)))
      (fun t => (t.seekState 0, t.currentTrack 0)) = some (.seekIdle, 5) := by decide

/-! ## States no run reaches: the bounds fault by name (notes/assumptions/7.md) -/

theorem test_param_index_fault :
    faultOf (step (calling (.write .data 0) { State.reset with phase := .command, cmdIndex := 0,
                                                                comm := { State.reset.comm with counter := 9 } })) =
      some .paramIndexOutOfRange := by decide
theorem test_result_index_fault :
    faultOf (step (calling (.read .data) { lastResult with res := { lastResult.res with counter := 7 } })) =
      some .resultIndexOutOfRange := by decide

/-! ## Witnesses: data that meet an obligation's hypotheses, each clause of them -/

theorem witness_DecodeOfEncodeGivesTheCommand :
    (Instr.readData true true true (ops 1 2 2)).wf = true ∧ (Instr.invalid false false false 0).wf = true := by decide
theorem witness_EncodeOfDecodeGivesTheBytes : decode [0x0F, 0x00, 0x05, 0x08] = .ok (.seek hu0 5, [0x08]) := by decide
theorem witness_EveryCommandByteDecodes : (descriptor (selectIndex 0xE6)).paramCount ≤ (List.replicate 8 (0xFF : Byte)).length ∧
    (descriptor (selectIndex 0xFF)).paramCount ≤ ([] : List Byte).length := by decide
theorem witness_LookupByOpcodeAndFlags_no_opcode : ∀ i, (descriptor i).opcode ≠ some ((0xFF : Byte).extractLsb' 0 5) := by decide
theorem witness_LookupByOpcodeAndFlags_flag :
    (descriptor 10).opcode = some ((0x83 : Byte).extractLsb' 0 5) ∧ (0x83 : Byte).getLsbD 7 = true ∧
      (descriptor 10).allowMT = false := by decide
theorem witness_LookupByOpcodeAndFlags_allowed :
    (descriptor 0).opcode = some ((0xE6 : Byte).extractLsb' 0 5) ∧ (descriptor 0).allowMT = true ∧ (descriptor 0).allowMF = true ∧
      (descriptor 0).allowSK = true := by decide
theorem witness_MainStatusReadByPhase :
    (calling (.read .msr) executing).inbox = [.read .msr] ∧ executing.phase = .execution ∧ executing.active.direction = .out ∧
      { wedged with phase := .execution }.active.direction = .inn := by decide
theorem witness_DataReadByPhase_execution_ends :
    let one : State := { executing with xbuf := { executing.xbuf with counter := 1 } }
    let full : State := { executing with xbuf := { executing.xbuf with length := 32768, counter := 32768 } }
    (∀ s ∈ [one, full], s.phase = .execution ∧ s.active.direction = .out ∧ 1 ≤ s.xbuf.counter ∧
      s.xbuf.counter ≤ s.xbuf.length ∧ s.xbuf.length ≤ 32768) := by decide
theorem witness_DataReadByPhase_others :
    lastResult.phase = .result ∧ lastResult.res.counter < 7 ∧ State.reset.phase = .idle ∧ seekLast.phase = .command ∧
      { wedged with phase := .execution }.active.direction = .inn := by decide
theorem witness_IgnoredWritesChangeNothing :
    (calling (.write .msr 0xAA) State.reset).inbox = [.write .msr 0xAA] ∧
      (calling (.write .data 0x08) lastResult).phase = .result ∧ (calling (.write .data 0x08) executing).phase = .execution ∧
      (calling (.write .data 0x08) executing).active.direction = .out := by decide
theorem witness_CommandByteBeginsTheCommand :
    (calling (.write .data 0x07) State.reset).phase = .idle ∧ (descriptor (selectIndex 0x07)).kind ≠ .stub ∧
      1 ≤ (descriptor (selectIndex 0x07)).paramCount := by decide
theorem witness_CommandByteBeginsTheCommand_wedge :
    let s := calling (.write .data 0x45) { State.reset with policy := .wedge }
    s.inbox = [.write .data 0x45] ∧ s.phase = .idle ∧ (descriptor (selectIndex 0x45)).kind = .stub ∧ s.policy = .wedge ∧
      1 ≤ (descriptor (selectIndex 0x45)).paramCount := by decide
theorem witness_StandardParameterByteIsStored :
    ∀ k ∈ [0, 6], let s : State := { State.reset with phase := .command, cmdIndex := 2, comm := { State.reset.comm with counter := k } }
      s.phase = .command ∧ s.active.layout = .standard ∧ s.active.kind = .implemented ∧ s.comm.counter < 7 := by decide
theorem witness_TickCountsDown :
    let s := calling .tick { State.reset with counters := ⟨1, 240, 0, 0⟩ }
    s.inbox = [.tick] ∧ 0 < s.counters.srt ∧ s.counters.hlt = 0 := by decide
theorem witness_ResetClearsTheControllerOnly : (calling .reset executing).inbox = [.reset] := by decide
theorem witness_EnvironmentReplacesOneRecord :
    (calling (.setDrive 3 DriveRecord.init) executing).inbox = [.setDrive 3 DriveRecord.init] ∧ (0 : BitVec 2) ≠ 3 := by decide
theorem witness_NoCallNoChange : executing.inbox = [] := by decide
theorem witness_StepRunsTheDecodedCommand :
    seekLast.inbox = [.write .data 0x05] ∧ seekLast.phase = .command ∧ seekLast.cmdIndex = selectIndex 0x0F ∧
      seekLast.flags = ⟨mtOf 0x0F, mfOf 0x0F, skOf 0x0F⟩ ∧ seekLast.active.kind ≠ .stub ∧
      seekLast.comm.counter + 1 = seekLast.active.paramCount ∧
      decode (0x0F :: (seekLast.accepted ++ [0x05])) = .ok (.seek hu0 5, []) := by decide
theorem witness_ParameterlessCommandCompletesInline :
    (calling (.write .data 0x08) State.reset).phase = .idle ∧ decode [0x08] = .ok (.senseInterruptStatus, []) ∧
      decode [0xFF] = .ok (.invalid true true true 0x1F, []) := by decide
theorem witness_StubRunsAtItsCommandByte :
    (calling (.write .data 0x4D) State.reset).phase = .idle ∧
      decode [0x4D, 0, 2, 9, 0x54, 0xE5] = .ok (.writeId true ⟨hu0, 2, 9, 0x54, 0xE5⟩, []) ∧ (descriptor 5).kind = .stub := by decide
theorem witness_WholeCommandRunsToItsMeaning :
    (Instr.specify ⟨0xA, 0xF, 1, true⟩).wf = true ∧ (descriptor (Instr.specify ⟨0xA, 0xF, 1, true⟩).index).kind ≠ .stub ∧
      { State.reset with inbox := [.write .data 0x03, .write .data 0xAF, .write .data 0x03, .tick] }.inbox =
        dataWrites (encode (.specify ⟨0xA, 0xF, 1, true⟩)) ++ [.tick] := by decide
theorem witness_AcceptedBytesAreTheOperands :
    (Instr.scanEqual true true true ⟨hu0, 0, 0, 1, 0, 1, 0x2A, 2⟩).wf = true ∧ (Instr.senseInterruptStatus).wf = true ∧
      (descriptor (Instr.senseInterruptStatus).index).layout = .empty ∧ (descriptor (Instr.seek hu0 5).index).layout ≠ .specify := by
  decide

/-- A state with a bus call pending meets the invariant in each phase. -/
theorem witness_Inv_executing : Inv (calling (.read .data) executing) := by
  refine ⟨by decide, by decide, by decide, by decide, by decide, by decide, by decide, by decide, ?_, ?_, by decide, ?_, ?_, ?_⟩
  · exact fun h => Phase.noConfusion h
  · exact fun h => Phase.noConfusion h
  · exact fun h => Phase.noConfusion h
  · exact fun h => Phase.noConfusion h
  · exact (by decide : Memory.wf executing.xbuf.mem ∧ ∀ x ∈ executing.xbuf.mem, x.1 < execBufSize)

theorem witness_Inv_result : Inv (calling (.read .data) lastResult) := by
  refine ⟨by decide, by decide, by decide, by decide, by decide, by decide, by decide, by decide, ?_, ?_, by decide, ?_, ?_, ?_⟩
  · exact fun h => Phase.noConfusion h
  · exact fun h => Phase.noConfusion h
  · exact fun h => Phase.noConfusion h
  · exact fun h => Phase.noConfusion h
  · exact (by decide : Memory.wf executing.xbuf.mem ∧ ∀ x ∈ executing.xbuf.mem, x.1 < execBufSize)

/-- SEEK's first parameter byte accepted: the invariant in Command. -/
theorem witness_Inv_command : Inv { seekLast with res := { seekLast.res with length := 0 } } := by
  refine ⟨by decide, by decide, by decide, by decide, by decide, by decide, by decide, by decide, by decide, by decide, by decide,
    by decide, by decide, ?_⟩
  exact (by decide : Memory.wf ([] : Memory) ∧ ∀ x ∈ ([] : Memory), x.1 < execBufSize)

theorem witness_Inv_idle_write : Inv (calling (.write .data 0x45) State.reset) := by
  refine ⟨by decide, by decide, by decide, by decide, by decide, by decide, by decide, by decide, by decide, by decide, by decide,
    by decide, by decide, ?_⟩
  exact (by decide : Memory.wf ([] : Memory) ∧ ∀ x ∈ ([] : Memory), x.1 < execBufSize)

/-- `EveryStepKeepsTheInvariant`: a state that meets the invariant and its next state. -/
theorem witness_EveryStepKeepsTheInvariant :
    Inv (calling (.read .data) executing) ∧ ∃ t, step (calling (.read .data) executing) = .next t :=
  ⟨witness_Inv_executing, _, rfl⟩
/-- `StepsNeverFaultAndRefuseOnlyTwoWays`: the premise, and its first two cases. -/
theorem witness_StepsNeverFaultAndRefuseOnlyTwoWays :
    Inv (calling (.write .data 0x45) State.reset) ∧ refusalOf (step (calling (.write .data 0x45) State.reset)) = some .stubCommand ∧
      seen (step (calling (.write .data 0x46) State.reset)) (fun t => t.phase) = some .command :=
  ⟨witness_Inv_idle_write, by decide, by decide⟩

theorem witness_CompletionPhaseByCommand : ∃ t, exec (.seek hu0 5) State.reset = .next t := ⟨_, rfl⟩
theorem witness_PhaseChangesFollowTheTable :
    (calling (.read .data) lastResult).inbox = [.read .data] ∧ (BusEvent.read .data).isReset = false ∧
      ∃ t, step (calling (.read .data) lastResult) = .next t := ⟨rfl, rfl, _, rfl⟩
theorem witness_ResultDrainEndsOnTheFinalRead :
    let s : State := { executing with phase := .result, inbox := dataReads 7 ++ [.tick] }
    s.phase = .result ∧ s.res.counter < s.res.length ∧ s.res.length ≤ 7 ∧ 7 ≤ s.res.length - s.res.counter ∧
      s.inbox = dataReads 7 ++ [.tick] := by decide
theorem witness_ExecutionDrainServesTheBytesInOrder :
    let s : State := { executing with inbox := dataReads 4 ++ [.tick] }
    s.phase = .execution ∧ s.active.direction = .out ∧ 0 < s.xbuf.counter ∧ s.xbuf.counter ≤ s.xbuf.length ∧
      s.xbuf.length ≤ 32768 ∧ 4 ≤ s.xbuf.counter ∧ s.inbox = dataReads 4 ++ [.tick] := by decide
theorem witness_OnlyAnIdleWriteSelectsACommand :
    seen (step (calling (.write .data 0x46) State.reset)) (fun t => (t.cmdIndex, t.flags)) = some (0, ⟨false, true, false⟩) ∧
      State.reset.cmdIndex ≠ 0 := by decide
theorem witness_SeekStateHasThreeWriters :
    seen (step seekLast) (fun t => t.seekState 0) = some .seeking ∧ seekLast.seekState 0 ≠ .seeking := by decide
theorem witness_ControllerWritesTrackAndSectorIndexOnly :
    (BusEvent.write .data 0x05).isEnvironment = false ∧ seen (step seekLast) (fun t => t.currentTrack 0) = some 5 ∧
      seekLast.currentTrack 0 ≠ 5 := by decide
theorem witness_SpecifyFieldsAndST3HaveOneWriter :
    (BusEvent.write .data 0xAF).isReset = false ∧
      seen (step (calling (.write .data 0xAF) { State.reset with phase := .command, cmdIndex := 10 })) (fun t => t.times.srt) = some 6 ∧
      seen (step (calling (.write .data 0x01) { State.reset with phase := .command, cmdIndex := 14 })) (fun t => t.bank.st3) =
        some 0x80 := by decide
theorem witness_SpecifyLoadsTimesAndCounters :
    let s : State := { State.reset with inbox := dataWrites [0x03, 0x00, 0x00] ++ [.tick] }
    s.phase = .idle ∧ s.inbox = dataWrites [0x03, 0x00, 0x00] ++ [.tick] := by decide
theorem witness_SenseInterruptAnswersBySeekState :
    [SeekState.seeking, .recalibrating, .acknowledged, .seekIdle].map
      (fun x => seen (exec .senseInterruptStatus (State.reset.setSeekState 0 x)) (fun t => t.res.length)) =
      [some 2, some 2, some 1, some 1] := by decide
theorem witness_ThreeSensesAfterASeek :
    let s : State := { State.reset.setSeekState 0 .seeking with
      inbox := dataWrites [0x08] ++ dataReads 2 ++ dataWrites [0x08] ++ dataReads 1 ++ dataWrites [0x08] ++ dataReads 1 ++ [] }
    s.phase = .idle ∧ s.seekState s.driveIndex = .seeking ∧
      s.inbox = dataWrites [0x08] ++ dataReads 2 ++ dataWrites [0x08] ++ dataReads 1 ++ dataWrites [0x08] ++ dataReads 1 ++ [] := by
  decide
theorem witness_SenseDriveStatusComposesST3 : hu0.us = 0 ∧ ({ hu0 with us := 3 } : HeadUnit).us ≠ 0 := by decide
theorem witness_SizeRule : ({ CommandParameters.zero with n := 0xFF } : CommandParameters).n ≠ 0 ∧ CommandParameters.zero.n = 0 := by
  decide
theorem witness_NotReadyShortCircuits : diskT.isReady 1 = false ∧ State.reset.isReady 0 = false := by decide
/-- A ready unit whose disk has no track under the head, and one whose track is empty. -/
theorem witness_TrackNotFoundShortCircuits :
    (diskT.setCurrentTrack 0 7).isReady 0 = true ∧ (diskT.setCurrentTrack 0 7).trackUnderHead 0 = none ∧
      (withTrack []).isReady 0 = true ∧ (withTrack []).trackUnderHead 0 = none := by decide
theorem witness_ReadCommandIsTheSectorLoop :
    diskT.isReady (ops 1 3 2).hu.us = true ∧
      diskT.trackUnderHead (ops 1 3 2).hu.us =
        some ⟨0, [sec 1 [0xA1, 0xA2] 0 0, sec 2 [0xB1, 0xB2] 0 0x40, sec 3 [0xC1, 0xC2] 0 0]⟩ := by decide
/-- A pass for an id past the table (V-RD-7) and a command whose first id is missing (V-RD-8). -/
theorem witness_SectorNotFoundShortCircuits :
    let l := [sec 1 [0x11] 0 0, sec 2 [0x22] 0 0]
    (∀ x ∈ l, x.r ≠ ({ diskT with p := { diskT.p with r := 3 } } : State).p.r) ∧
      (withTrack l).isReady (ops 9 9 2).hu.us = true ∧ (withTrack l).trackUnderHead (ops 9 9 2).hu.us = some ⟨0, l⟩ ∧
      (∀ x ∈ l, x.r ≠ (ops 9 9 2).r) := by decide
/-- A marked sector read with the skip flag clear, in the middle of the table, its id not the end-of-track id. -/
theorem witness_OneSectorReadCompletes_control :
    let a := ops 2 3 2
    let x := sec 2 [0xB1, 0xB2] 0 0x40
    diskT.isReady a.hu.us = true ∧
      diskT.trackUnderHead a.hu.us = some ⟨0, [sec 1 [0xA1, 0xA2] 0 0] ++ x :: [sec 3 [0xC1, 0xC2] 0 0]⟩ ∧
      (∀ y ∈ [sec 1 [0xA1, 0xA2] 0 0], y.r ≠ a.r) ∧ x.r = a.r ∧ a.eot ≠ a.r ∧ x.data.length ≤ 32768 ∧
      false = (x.st1.getLsbD 5 || x.st2.getLsbD 5) ∧ true = (!false && (x.st2.getLsbD 6 != false)) := by decide
/-- A wanted sector with a data error under the skip flag, not the end-of-track id, without data bytes. -/
theorem witness_OneSectorReadCompletes_bad :
    let a := ops 1 2 2
    let x := sec 1 [] 0x20 0x40
    let s := withTrack [x, sec 2 [0x22] 0 0x40]
    s.isReady a.hu.us = true ∧ s.trackUnderHead a.hu.us = some ⟨0, [] ++ x :: [sec 2 [0x22] 0 0x40]⟩ ∧ x.r = a.r ∧ a.eot ≠ a.r ∧
      x.data = [] ∧ true = (x.st1.getLsbD 5 || x.st2.getLsbD 5) ∧ false = (!true && (x.st2.getLsbD 6 != true)) ∧
      x.st2.getLsbD 6 = true := by decide
/-- The end-of-track id at the table's end, both data errors. -/
theorem witness_OneSectorReadCompletes_last :
    let a := ops 1 1 1
    let x := sec 1 [0x11] 0xA0 0x60
    let s := withTrack [x]
    s.isReady a.hu.us = true ∧ s.trackUnderHead a.hu.us = some ⟨0, [] ++ x :: []⟩ ∧ x.r = a.r ∧ a.eot = a.r ∧
      true = (x.st1.getLsbD 5 || x.st2.getLsbD 5) ∧ false = (!true && (x.st2.getLsbD 6 != true)) ∧ x.st2.getLsbD 6 = true := by decide
theorem witness_SkippedLastSectorGivesResultDirectly :
    let a := ops 2 2 2
    let x := sec 2 [0xB1, 0xB2] 0 0x40
    diskT.isReady a.hu.us = true ∧
      diskT.trackUnderHead a.hu.us = some ⟨0, [sec 1 [0xA1, 0xA2] 0 0] ++ x :: [sec 3 [0xC1, 0xC2] 0 0]⟩ ∧
      (∀ y ∈ [sec 1 [0xA1, 0xA2] 0 0], y.r ≠ a.r) ∧ x.r = a.r ∧ a.eot = a.r ∧ x.st2.getLsbD 6 ≠ false := by decide
theorem witness_CleanTrackIsReadInFull :
    let l := [sec 1 [0x11, 0x22] 0 0, sec 2 [0x33, 0x44] 0 0]
    let a := ops 1 2 2
    (withTrack l).isReady a.hu.us = true ∧ (withTrack l).trackUnderHead a.hu.us = some ⟨0, l⟩ ∧ l.length ≤ 255 ∧
      (∀ k < 2, (l[k]?).map (fun x => x.r) = some (BitVec.ofNat 8 (k + 1))) ∧
      (∀ x ∈ l, x.st1.getLsbD 5 = false ∧ x.st2.getLsbD 5 = false ∧ x.st2.getLsbD 6 = false) ∧ a.r = 1 ∧
      a.eot = BitVec.ofNat 8 l.length ∧ l.getLast? = some (sec 2 [0x33, 0x44] 0 0) ∧ totalData l ≤ 32768 := by decide
/-- The same for READ_DELETED_DATA: every sector marked. -/
theorem witness_CleanTrackIsReadInFull_deleted :
    let l := [sec 1 [0x11, 0x22] 0 0x40, sec 2 [0x33, 0x44] 0 0x40]
    let a := ops 1 2 2
    (withTrack l).isReady a.hu.us = true ∧ (withTrack l).trackUnderHead a.hu.us = some ⟨0, l⟩ ∧
      (∀ x ∈ l, x.st1.getLsbD 5 = false ∧ x.st2.getLsbD 5 = false ∧ x.st2.getLsbD 6 = true) ∧
      a.eot = BitVec.ofNat 8 l.length ∧ l.getLast? = some (sec 2 [0x33, 0x44] 0 0x40) ∧ totalData l ≤ 32768 := by decide
/-- A skipped sector in the loop, its id below the end-of-track id and at it, and the first sector of a read. -/
theorem witness_SkippedSectorIsPassedOver :
    let x := sec 2 [0xB1, 0xB2] 0 0x40
    let a := ops 2 3 2
    (∀ eot ∈ [(3 : Byte), 2],
      let s : State := { diskT with flags := ⟨false, true, true⟩, p := { diskT.p with r := 2, eot := eot } }
      (∀ y ∈ [sec 1 [0xA1, 0xA2] 0 0], y.r ≠ s.p.r) ∧ x.r = s.p.r ∧ s.flags.sk = true ∧ x.st2.getLsbD 6 ≠ false ∧
        (s.p.r = s.p.eot ↔ eot = 2)) ∧
      diskT.isReady a.hu.us = true ∧
      diskT.trackUnderHead a.hu.us = some ⟨0, [sec 1 [0xA1, 0xA2] 0 0] ++ x :: [sec 3 [0xC1, 0xC2] 0 0]⟩ ∧
      (∀ y ∈ [sec 1 [0xA1, 0xA2] 0 0], y.r ≠ a.r) ∧ x.r = a.r ∧ a.eot ≠ a.r := by decide
/-- A copied sector in the loop after two bytes, the id wrapping next: it goes on; with a data error or an unwanted mark, or as the
end-of-track id, it ends the loop. -/
theorem witness_CopiedSectorEndsTheLoopOrGoesOn :
    let s : State := { diskT with p := { diskT.p with r := 0xFF, eot := 0 }, xbuf := ⟨[(0, 0xA1), (1, 0xA2)], 2, 0, 0⟩ }
    (∀ c ∈ [(sec 0xFF [0x11] 0x80 0, false, false), (sec 0xFF [0x11] 0x20 0, true, false), (sec 0xFF [] 0 0x40, false, true)],
      c.1.r = s.p.r ∧ s.xbuf.wr + c.1.data.length ≤ 32768 ∧ c.2.1 = (c.1.st1.getLsbD 5 || c.1.st2.getLsbD 5) ∧
        c.2.2 = (!s.flags.sk && (c.1.st2.getLsbD 6 != false))) ∧
      Memory.wf s.xbuf.mem ∧ s.flags.sk = false ∧ s.p.r ≠ s.p.eot ∧
      { s with p := { s.p with eot := 0xFF } }.p.eot = s.p.r := by decide
theorem witness_ReadOfAFittingTrackCompletes :
    diskT.isReady 0 = true ∧ (∃ tr, diskT.trackUnderHead 0 = some tr ∧ totalData tr.sectors ≤ 32768) :=
  ⟨by decide, ⟨0, [sec 1 [0xA1, 0xA2] 0 0, sec 2 [0xB1, 0xB2] 0 0x40, sec 3 [0xC1, 0xC2] 0 0]⟩, by decide, by decide⟩
theorem witness_ReadCommandsFrame :
    (∃ t, exec (.readData false true false (ops 1 3 2)) diskT = .next t) ∧
      (∃ t, exec (.readDeletedData false true false (ops 1 3 2)) diskT = .next t) ∧
      (∃ t, exec (.readDiagnostic true false (ops 1 1 2)) diskT = .next t) ∧ ∃ t, exec (.readId true hu0) diskT = .next t :=
  ⟨⟨_, rfl⟩, ⟨_, rfl⟩, ⟨_, rfl⟩, _, rfl⟩
theorem witness_ReadDiagnosticReadsTheWholeTrack :
    (withTrack [sec 1 [0x11] 0 0]).isReady 0 = true ∧
      (withTrack [sec 1 [0x11] 0 0]).trackUnderHead 0 = some ⟨0, [sec 1 [0x11] 0 0]⟩ ∧ totalData [sec 1 [0x11] 0 0] ≤ 32768 := by
  decide
theorem witness_ReadIdReportsTheNextSector :
    let s := (withTrack [sec 0xC1 [] 0 0, sec 0xC2 [] 0 0]).setSectorIndex 0 5
    s.isReady 0 = true ∧ s.trackUnderHead 0 = some ⟨0, [sec 0xC1 [] 0 0, sec 0xC2 [] 0 0]⟩ ∧
      [sec 0xC1 [] 0 0, sec 0xC2 [] 0 0][(s.drive 0).sectorIndex % [sec 0xC1 [] 0 0, sec 0xC2 [] 0 0].length]? = some (sec 0xC2 [] 0 0) := by decide

/-- A track one byte too long for the execution buffer. -/
def longSector : Sector := sec 1 (List.replicate 32769 0) 0 0

theorem longSector_length : longSector.data.length = 32769 := List.length_replicate

theorem witness_ExecBufferOverflowIsRefused :
    (withTrack [longSector]).isReady 0 = true ∧ (withTrack [longSector]).trackUnderHead 0 = some ⟨0, [longSector]⟩ ∧
      32768 < totalData [longSector] ∧ findSector [longSector] 1 = some (0, longSector) ∧
      (false && longSector.mismatch false) = false ∧ 32768 < 0 + longSector.data.length ∧
      [longSector] = [] ++ longSector :: [] ∧ longSector.r = (ops 1 1 2).r ∧ 32768 < longSector.data.length :=
  ⟨rfl, rfl, by
    simp only [totalData, List.map_cons, List.map_nil, List.sum_cons, List.sum_nil, longSector_length]
    decide, rfl, rfl, by
    rw [longSector_length]
    decide, rfl, rfl, by
    rw [longSector_length]
    decide⟩
theorem witness_StubCommandsAreRefused : State.reset.policy = .refuse := by decide
theorem witness_StubCommandsAreEmptyUnderWedge : wedged.policy = .wedge := by decide
theorem witness_WedgedControllerHangs_begins :
    let s := calling (.write .data 0x5D) { State.reset with policy := .wedge }
    s.inbox = [.write .data 0x5D] ∧ s.phase = .idle ∧ (descriptor (selectIndex 0x5D)).kind = .stub ∧ s.policy = .wedge ∧
      selectIndex 0x45 = 4 ∧ selectIndex 0x5D = 9 := by decide
theorem witness_WedgedControllerHangs :
    let s : State := { wedged with inbox := [.write .data 0x12, .read .data, .read .msr] }
    s.phase = .command ∧ s.active.kind = .stub ∧ s.policy = .wedge ∧ (∀ e ∈ s.inbox, e.isReset = false) ∧
      (∃ t, run 1 s = .next t ∧ t.inbox = [.read .data, .read .msr]) :=
  ⟨rfl, rfl, rfl, by decide, _, rfl, rfl⟩

end Sys2Proof.Tests
end

section
/-! PROOFS. The scope: what the controller does with no call of the agents (00_scope.md R4). -/

namespace Sys2Proof.Proofs

open Sys2Proof.Machine

/-- Settles O16: the law of a step on an empty inbox. -/
theorem noCallNoChange : Obligations.NoCallNoChange := fun _ => step_nil

end Sys2Proof.Proofs
end

section
/-! PROOFS. What a read command's completion leaves (41_read_family.md R78 to R86): the frame of its flags, drives and execution
buffer, and the phase it ends in. -/

namespace Sys2Proof.Machine

/-! ## The execution buffer within its size (R12, R39) -/

/-- The execution buffer's memory is canonical and its write cursor is within the 32768 bytes. -/
structure ExecBuffer.Fits (x : ExecBuffer) : Prop where
  ok : x.ok
  wr : x.wr ≤ execBufSize

theorem ExecBuffer.fits_clear (x : ExecBuffer) : x.clear.Fits := ⟨x.ok_clear, Nat.zero_le _⟩

theorem ExecBuffer.Fits.append {x : ExecBuffer} (h : x.Fits) {data : List Byte} (hfit : x.overflows data = false) :
    (x.append data).Fits := by
  refine ⟨ExecBuffer.ok_append h.ok hfit, ?_⟩
  simpa [ExecBuffer.overflows] using hfit

/-! ## Inside a read command -/

/-- The states a read command passes through from `s` on: besides the frame, the flags and the drives are as they were, and
the execution buffer is within its size. -/
structure ReadProgress (s v : State) : Prop where
  frame : ReadFrame s v
  flags : v.flags = s.flags
  drives : v.drives = s.drives
  fits : v.xbuf.Fits

theorem ReadProgress.prepared (s : State) : ReadProgress s s.prepared :=
  ⟨ReadFrame.prepared s, rfl, rfl, s.xbuf.fits_clear⟩

theorem ReadProgress.sized (s : State) : ReadProgress s s.sized :=
  ⟨ReadFrame.sized s, rfl, rfl, s.xbuf.fits_clear⟩

theorem ReadProgress.nextId {s v : State} (h : ReadProgress s v) : ReadProgress s v.nextId :=
  ⟨h.frame.trans (ReadFrame.nextId v), h.flags, h.drives, h.fits⟩

theorem ReadProgress.takeSector {s v : State} (h : ReadProgress s v) (w : Bool) {x : Sector}
    (hfit : v.xbuf.overflows x.data = false) : ReadProgress s (v.takeSector w x).1 :=
  ⟨h.frame.trans (ReadFrame.takeSector v w x), h.flags, h.drives, h.fits.append hfit⟩

theorem ReadProgress.diagnosticLoop {s : State} (l : List Sector) {v t : State} (h : ReadProgress s v)
    (hl : v.diagnosticLoop l = some t) : ReadProgress s t := by
  induction l generalizing v with
  | nil => exact Option.some.inj hl ▸ h
  | cons x xs ih =>
    unfold State.diagnosticLoop at hl
    split at hl
    · simp at hl
    · rename_i hov
      refine ih ?_ hl
      refine ⟨h.frame.trans ?_, h.flags, h.drives, h.fits.append (by simpa using hov)⟩
      split <;> constructor <;> rfl

/-! ## The end of a read command -/

/-- The states a read command from `s` ends in: all execution bytes are still to be served, and the phase is Execution iff there
are any (R82, R111). -/
structure ReadEnd (s t : State) : Prop extends ReadProgress s t where
  counter : t.xbuf.counter = t.xbuf.length
  length : t.xbuf.length ≤ execBufSize
  phase : t.phase = if 0 < t.xbuf.length then .execution else .result

theorem ReadProgress.raiseCondition {s v : State} (h : ReadProgress s v) (x : ShortCircuit) :
    ReadEnd s (v.raiseCondition x) where
  frame := h.frame.trans (ReadFrame.raiseCondition v x)
  flags := h.flags
  drives := h.drives
  fits := ⟨h.fits.ok, h.fits.wr⟩
  counter := rfl
  length := Nat.zero_le _
  phase := rfl

theorem ReadProgress.finish {s v : State} (h : ReadProgress s v) (t : Track) (i : Nat) : ReadEnd s (v.finish t i) where
  frame := h.frame.trans (ReadFrame.finish v t i)
  flags := by simp [h.flags]
  drives := by simp [h.drives]
  fits := by simpa using ⟨h.fits.ok, h.fits.wr⟩
  counter := by simp
  length := by simpa using h.fits.wr
  phase := by simp

/-- The preamble raises a condition or hands on the sized state with a track (R78, R112). -/
theorem State.readPreamble_cases (s : State) :
    (∃ u, ReadEnd s u ∧ s.readPreamble = .error u) ∨ ∃ t, s.readPreamble = .ok (s.sized, t) := by
  rw [State.readPreamble_eq]
  split
  · split
    · exact .inr ⟨_, rfl⟩
    · exact .inl ⟨_, (ReadProgress.sized s).raiseCondition _, rfl⟩
  · exact .inl ⟨_, (ReadProgress.prepared s).raiseCondition _, rfl⟩

/-- READ_DATA and READ_DELETED_DATA past their operands (R83, R84). -/
theorem State.completeRead_readEnd {w : Bool} {s t : State} (h : s.completeRead w = .next t) : ReadEnd s t := by
  unfold State.completeRead at h
  obtain ⟨u, hu, heq⟩ | ⟨k, heq⟩ := s.readPreamble_cases <;> rw [heq] at h
  · exact Host.Outcome.next.inj h ▸ hu
  · obtain ⟨u, hu, hend⟩ | ⟨u, i, hu, -, hend⟩ | hend | hend :=
      State.readLoop_keeps (P := ReadProgress s) w k (fun _ hv => hv.nextId) (fun _ _ _ hv hfit => hv.takeSector w hfit) 255
        s.sized (ReadProgress.sized s)
    all_goals simp only [hend] at h
    · exact Host.Outcome.next.inj h ▸ hu.raiseCondition _
    · exact Host.Outcome.next.inj h ▸ hu.finish k i
    · exact absurd h (by simp)
    · exact absurd h (by simp)

/-- READ_DIAGNOSTIC (R85). -/
theorem execReadDiagnostic_readEnd {mf sk : Bool} {a : StdOperands} {s t : State} (h : execReadDiagnostic mf sk a s = .next t) :
    ReadEnd (s.withOperands { s.flags with mf := mf, sk := sk } (stdParameters a)) t := by
  unfold execReadDiagnostic at h
  obtain ⟨u, hu, heq⟩ | ⟨k, heq⟩ :=
    (s.withOperands { s.flags with mf := mf, sk := sk } (stdParameters a)).readPreamble_cases <;> simp only [heq] at h
  · exact Host.Outcome.next.inj h ▸ hu
  · split at h
    · exact absurd h (by simp)
    · rename_i v hv
      exact Host.Outcome.next.inj h ▸ ((ReadProgress.sized _).diagnosticLoop k.sectors hv).finish k _

/-- The state READ_ID works in: its operands, and ST0 to ST2 cleared (R86). -/
def State.readIdStart (mf : Bool) (hu : HeadUnit) (s : State) : State :=
  { s.withOperands { s.flags with mf := mf } (headUnitParameters hu) with bank := s.bank.clear }

theorem State.readIdStart_frame (mf : Bool) (hu : HeadUnit) (s : State) : ReadFrame s (s.readIdStart mf hu) := by
  constructor <;> rfl

/-- READ_ID raises a condition or reports a sector (R86). -/
theorem execReadId_next_cases {mf : Bool} {hu : HeadUnit} {s t : State} (h : execReadId mf hu s = .next t) :
    (∃ x, t = (s.readIdStart mf hu).raiseCondition x) ∨ ∃ d n i x, t = (s.readIdStart mf hu).reportSector d n i x := by
  simp only [execReadId] at h
  split at h
  · split at h
    · split at h
      · exact .inr ⟨_, _, _, _, (Host.Outcome.next.inj h).symm⟩
      · exact .inl ⟨_, (Host.Outcome.next.inj h).symm⟩
    · exact .inl ⟨_, (Host.Outcome.next.inj h).symm⟩
  · exact .inl ⟨_, (Host.Outcome.next.inj h).symm⟩

end Sys2Proof.Machine
end

section
/-! PROOFS. What the completion of a command can change (40_phase_machine_and_dispatch.md R72), said once for all sixteen. -/

namespace Sys2Proof.Machine

/-! ## The fields with a writer of their own -/

/-- What catalog entry `j` may change of a drive record: the track in SEEK and RECALIBRATE, the sector index in READ_ID (R40). -/
structure DriveFrame (j : Fin 16) (r r' : DriveRecord) : Prop where
  ready : r'.ready = r.ready
  writeProtect : r'.writeProtect = r.writeProtect
  disk : r'.disk = r.disk
  track : j ≠ 11 → j ≠ 12 → r'.track = r.track
  sectorIndex : j ≠ 3 → r'.sectorIndex = r.sectorIndex

theorem DriveFrame.refl (j : Fin 16) (r : DriveRecord) : DriveFrame j r r := ⟨rfl, rfl, rfl, fun _ _ => rfl, fun _ => rfl⟩

theorem DriveFrame.trans {j : Fin 16} {r r' r'' : DriveRecord} (h : DriveFrame j r r') (k : DriveFrame j r' r'') :
    DriveFrame j r r'' where
  ready := k.ready.trans h.ready
  writeProtect := k.writeProtect.trans h.writeProtect
  disk := k.disk.trans h.disk
  track h1 h2 := (k.track h1 h2).trans (h.track h1 h2)
  sectorIndex h1 := (k.sectorIndex h1).trans (h.sectorIndex h1)

theorem DriveFrame.setDriveRecord {j : Fin 16} {s : State} {d : BitVec 2} {r : DriveRecord} (h : DriveFrame j (s.drive d) r)
    (e : BitVec 2) : DriveFrame j (s.drive e) ((s.setDriveRecord d r).drive e) := by
  by_cases he : e = d
  · subst he
    rwa [State.drive_setDriveRecord_self]
  · rw [State.drive_setDriveRecord_other s r he]
    exact DriveFrame.refl j _

/-- What catalog entry `j` may change of the fields that have a writer of their own: the seek states (R87), the drive records
(R40), the Specify fields (R15), ST3 (R25). -/
structure WriterFrame (j : Fin 16) (s t : State) : Prop where
  seek : j ≠ 11 → j ≠ 12 → j ≠ 13 → t.seek = s.seek
  drive : ∀ d, DriveFrame j (s.drive d) (t.drive d)
  times : j ≠ 10 → t.times = s.times
  st3 : j ≠ 14 → t.bank.st3 = s.bank.st3

theorem WriterFrame.trans {j : Fin 16} {s t u : State} (h : WriterFrame j s t) (k : WriterFrame j t u) : WriterFrame j s u where
  seek h1 h2 h3 := (k.seek h1 h2 h3).trans (h.seek h1 h2 h3)
  drive d := (h.drive d).trans (k.drive d)
  times h1 := (k.times h1).trans (h.times h1)
  st3 h1 := (k.st3 h1).trans (h.st3 h1)

/-- None of these fields changed. -/
theorem WriterFrame.of_eq (j : Fin 16) {s t : State} (seek : t.seek = s.seek) (drives : t.drives = s.drives)
    (times : t.times = s.times) (st3 : t.bank.st3 = s.bank.st3) : WriterFrame j s t where
  seek _ _ _ := seek
  drive d := State.drive_congr drives d ▸ DriveFrame.refl j _
  times _ := times
  st3 _ := st3

theorem WriterFrame.of_readFrame (j : Fin 16) {s t : State} (h : ReadFrame s t)
    (drive : ∀ d, DriveFrame j (s.drive d) (t.drive d)) : WriterFrame j s t where
  seek _ _ _ := h.seek
  drive := drive
  times _ := h.times
  st3 _ := h.st3

/-- SEEK and RECALIBRATE, up to the operands they store (R88, R89). -/
theorem WriterFrame.seekTo {j : Fin 16} (hj : j = 11 ∨ j = 12) (s : State) (d : BitVec 2) (n : Nat) (x : SeekState) :
    WriterFrame j s (s.seekTo d n x) where
  seek h11 h12 _ := absurd hj (by simp [h11, h12])
  drive := DriveFrame.setDriveRecord (r := { s.drive d with track := n })
    ⟨rfl, rfl, rfl, fun h11 h12 => absurd hj (by simp [h11, h12]), fun _ => rfl⟩
  times _ := rfl
  st3 _ := rfl

/-! ## The completion of a command -/

/-- The flags after the completion of an instruction: those its encoding leaves free are its own (log 6). -/
def latchedFlags (i : Instr) (f : CommandFlags) : CommandFlags :=
  match i with
  | .readData mt mf sk _ => ⟨mt, mf, sk⟩
  | .readDeletedData mt mf sk _ => ⟨mt, mf, sk⟩
  | .readDiagnostic mf sk _ => { f with mf := mf, sk := sk }
  | .readId mf _ => { f with mf := mf }
  | .invalid mt mf sk _ => ⟨mt, mf, sk⟩
  | _ => f

/-- A fetched instruction's flags are the latched ones. -/
theorem latchedFlags_fetched (s : State) (op : BitVec 5) : latchedFlags (s.fetched op) s.flags = s.flags := by
  unfold State.fetched
  generalize s.cmdIndex = j
  fin_cases j <;> rfl

/-- What the completion of instruction `i` leaves alone, in any state. -/
structure ExecFrame (i : Instr) (s t : State) : Prop where
  cmdIndex : t.cmdIndex = s.cmdIndex
  comm : t.comm = s.comm
  resCounter : t.res.counter = s.res.counter
  flags : t.flags = latchedFlags i s.flags
  writers : WriterFrame i.index s t

theorem ExecFrame.of_readFrame {i : Instr} {s t : State} (h : ReadFrame s t) (hf : t.flags = latchedFlags i s.flags)
    (hd : ∀ d, DriveFrame i.index (s.drive d) (t.drive d)) : ExecFrame i s t :=
  ⟨h.cmdIndex, h.comm, h.resCounter, hf, WriterFrame.of_readFrame i.index h hd⟩

theorem ReadFrame.withOperands (s : State) (f : CommandFlags) (p : CommandParameters) : ReadFrame s (s.withOperands f p) := by
  constructor <;> rfl

/-- A read command that ends in `ReadEnd` past its operands. -/
theorem ExecFrame.of_readEnd {i : Instr} {s t : State} {p : CommandParameters}
    (h : ReadEnd (s.withOperands (latchedFlags i s.flags) p) t) : ExecFrame i s t :=
  ExecFrame.of_readFrame ((ReadFrame.withOperands s _ p).trans h.frame) h.flags
    fun d => State.drive_congr h.drives d ▸ DriveFrame.refl _ _

theorem ExecFrame.readId {mf : Bool} {hu : HeadUnit} {s t : State} (h : execReadId mf hu s = .next t) :
    ExecFrame (.readId mf hu) s t := by
  have hstart := s.readIdStart_frame mf hu
  obtain ⟨x, rfl⟩ | ⟨d, n, i, x, rfl⟩ := execReadId_next_cases h
  · exact ExecFrame.of_readFrame (hstart.trans (ReadFrame.raiseCondition _ x)) rfl (fun d => DriveFrame.refl _ _)
  · refine ExecFrame.of_readFrame (hstart.trans (by constructor <;> rfl)) rfl ?_
    exact DriveFrame.setDriveRecord (r := { s.drive d with sectorIndex := (i + 1) % n })
      ⟨rfl, rfl, rfl, fun _ _ => rfl, fun h3 => absurd rfl h3⟩

theorem ExecFrame.senseInterruptStatus {s t : State} (h : execSenseInterruptStatus s = .next t) :
    ExecFrame .senseInterruptStatus s t := by
  have hwriters : ∀ u : State, u.drives = s.drives → u.times = s.times → u.bank.st3 = s.bank.st3 → WriterFrame 13 s u :=
    fun u hd ht h3 =>
      ⟨fun _ _ h13 => absurd rfl h13, fun d => State.drive_congr hd d ▸ DriveFrame.refl _ _, fun _ => ht, fun _ => h3⟩
  simp only [execSenseInterruptStatus] at h
  split at h <;> obtain rfl := Host.Outcome.next.inj h <;> exact ⟨rfl, rfl, rfl, rfl, hwriters _ rfl rfl rfl⟩

/-- A stub's routine changes nothing (R101). -/
theorem State.stubRoutine_next {s t : State} (h : s.stubRoutine = .next t) : s.policy = .wedge ∧ t = s := by
  unfold State.stubRoutine at h
  split at h
  · exact absurd h (by simp)
  · rename_i hp
    exact ⟨hp, (Host.Outcome.next.inj h).symm⟩

theorem ExecFrame.stub {i : Instr} (hflags : ∀ f, latchedFlags i f = f) {s t : State} (h : s.stubRoutine = .next t) :
    ExecFrame i s t := by
  obtain ⟨-, rfl⟩ := State.stubRoutine_next h
  exact ⟨rfl, rfl, rfl, (hflags _).symm, WriterFrame.of_eq _ rfl rfl rfl rfl⟩

/-- Every completion keeps to its frame. -/
theorem exec_frame {i : Instr} {s t : State} (h : exec i s = .next t) : ExecFrame i s t := by
  cases i with
  | readData mt mf sk a => exact ExecFrame.of_readEnd (State.completeRead_readEnd h)
  | readDeletedData mt mf sk a => exact ExecFrame.of_readEnd (State.completeRead_readEnd h)
  | readDiagnostic mf sk a => exact ExecFrame.of_readEnd (execReadDiagnostic_readEnd h)
  | readId mf hu => exact ExecFrame.readId h
  | writeData mt mf a => exact ExecFrame.stub (fun _ => rfl) h
  | writeId mf a => exact ExecFrame.stub (fun _ => rfl) h
  | writeDeletedData mt mf a => exact ExecFrame.stub (fun _ => rfl) h
  | scanEqual mt mf sk a => exact ExecFrame.stub (fun _ => rfl) h
  | scanLowOrEqual mt mf sk a => exact ExecFrame.stub (fun _ => rfl) h
  | scanHighOrEqual mt mf sk a => exact ExecFrame.stub (fun _ => rfl) h
  | specify a =>
    obtain rfl := Host.Outcome.next.inj h
    exact ⟨rfl, rfl, rfl, rfl, fun _ _ _ => rfl, fun _ => DriveFrame.refl _ _, fun h10 => absurd rfl h10, fun _ => rfl⟩
  | seek hu ncn =>
    obtain rfl := Host.Outcome.next.inj h
    refine ⟨rfl, rfl, rfl, rfl, .trans (t := { s with p := seekParameters hu ncn }) ?_ (.seekTo (.inl rfl) _ _ _ _)⟩
    exact WriterFrame.of_eq 11 rfl rfl rfl rfl
  | recalibrate hu =>
    obtain rfl := Host.Outcome.next.inj h
    refine ⟨rfl, rfl, rfl, rfl, .trans (t := { s with p := headUnitParameters hu }) ?_ (.seekTo (.inr rfl) _ _ _ _)⟩
    exact WriterFrame.of_eq 12 rfl rfl rfl rfl
  | senseInterruptStatus => exact ExecFrame.senseInterruptStatus h
  | senseDriveStatus hu =>
    obtain rfl := Host.Outcome.next.inj h
    exact ⟨rfl, rfl, rfl, rfl, fun _ _ _ => rfl, fun _ => DriveFrame.refl _ _, fun _ => rfl, fun h14 => absurd rfl h14⟩
  | invalid mt mf sk op =>
    obtain rfl := Host.Outcome.next.inj h
    exact ⟨rfl, rfl, rfl, rfl, WriterFrame.of_eq _ rfl rfl rfl rfl⟩

/-! ## The completion of the active command -/

/-- The command whose bytes `s` has accepted is fetched and completed, or nothing is. -/
def State.CompletesTo (s t : State) : Prop := t = s ∨ ∃ op, exec (s.fetched op) s = .next t

/-- Completing the active command keeps the command and the latched flags (R13, R66), and its own writes. -/
theorem State.CompletesTo.frame {s t : State} (h : s.CompletesTo t) :
    t.cmdIndex = s.cmdIndex ∧ t.flags = s.flags ∧ WriterFrame s.cmdIndex s t := by
  obtain rfl | ⟨op, h⟩ := h
  · exact ⟨rfl, rfl, WriterFrame.of_eq _ rfl rfl rfl rfl⟩
  · have hframe := exec_frame h
    exact ⟨hframe.cmdIndex, hframe.flags.trans (latchedFlags_fetched s op), by simpa using hframe.writers⟩

/-! ## Accepting a byte -/

theorem WriterFrame.acceptCommandByte (j : Fin 16) (s : State) (b : Byte) : WriterFrame j s (s.acceptCommandByte b) :=
  WriterFrame.of_eq j rfl rfl rfl rfl

/-- Only the SPECIFY layout is SPECIFY's. -/
theorem layout_eq_specify {j : Fin 16} (h : (descriptor j).layout = .specify) : j = 10 := by
  revert j; decide

theorem State.parseParamByte_times {s : State} (h : s.cmdIndex ≠ 10) (k : Nat) (b : Byte) :
    (s.parseParamByte k b).times = s.times := by
  unfold State.parseParamByte
  cases hl : (descriptor s.cmdIndex).layout <;> dsimp only
  case standard => exact State.parseStandard_times ..
  case scan => exact State.parseStandard_times ..
  case headUnit => split <;> rfl
  case seek => split <;> [rfl; (split <;> rfl)]
  case specify => exact absurd (layout_eq_specify hl) h

/-- A parameter byte writes none of these fields but SPECIFY's own (R92). -/
theorem WriterFrame.acceptParam (s : State) (b : Byte) : WriterFrame s.cmdIndex s (s.acceptParam b) where
  seek _ _ _ := State.acceptParam_seek s b
  drive d := State.drive_congr (State.acceptParam_drives s b) d ▸ DriveFrame.refl _ _
  times h := State.parseParamByte_times (s := { s with lastReceived := b, comm := _ }) h s.comm.counter b
  st3 _ := congrArg StatusBank.st3 (State.acceptParam_bank s b)

end Sys2Proof.Machine
end

section
/-! PROOFS. Who writes which field (10_state.md R13, R15, R18, R25, R26): what one call can change. -/

namespace Sys2Proof.Machine

/-! ## What a call can change -/

/-- `t` is `s` up to the cursors, the phase, the countdown counters and the bytes of the bus: what a call that is no data write,
no reset and no environment change may write. -/
structure QuietFrame (s t : State) : Prop where
  cmdIndex : t.cmdIndex = s.cmdIndex
  flags : t.flags = s.flags
  seek : t.seek = s.seek
  drives : t.drives = s.drives
  times : t.times = s.times
  st3 : t.bank.st3 = s.bank.st3

theorem QuietFrame.writers {s t : State} (h : QuietFrame s t) (j : Fin 16) : WriterFrame j s t :=
  WriterFrame.of_eq j h.seek h.drives h.times h.st3

theorem QuietFrame.busReadData {s t : State} (h : busReadData s = .next t) : QuietFrame s t := by
  obtain ⟨ht, -⟩ := busReadData_next h
  rw [ht]
  constructor <;> rfl

/-- The four kinds of calls (R4): a reset, an environment change, a data write, or one that writes none of the fields of
`QuietFrame`. -/
theorem handle_next_cases {e : BusEvent} {s t : State} (h : handle e s = .next t) :
    (e.isReset = true ∧ t = s.resetController) ∨ (e.isEnvironment = true ∧ ∃ d r, t = s.setDriveRecord d r) ∨
    (∃ b, e = .write .data b ∧ busWriteData b s = .next t) ∨ QuietFrame s t := by
  match e, h with
  | .read .msr, h =>
    obtain rfl := Host.Outcome.next.inj h
    exact .inr (.inr (.inr (by constructor <;> rfl)))
  | .read .data, h => exact .inr (.inr (.inr (QuietFrame.busReadData h)))
  | .write .msr _, h =>
    obtain rfl := Host.Outcome.next.inj h
    exact .inr (.inr (.inr (by constructor <;> rfl)))
  | .write .data b, h => exact .inr (.inr (.inl ⟨b, rfl, h⟩))
  | .tick, h =>
    obtain rfl := Host.Outcome.next.inj h
    exact .inr (.inr (.inr (by constructor <;> rfl)))
  | .reset, h => exact .inl ⟨rfl, (Host.Outcome.next.inj h).symm⟩
  | .setDrive d r, h => exact .inr (.inl ⟨rfl, d, r, (Host.Outcome.next.inj h).symm⟩)

/-- A data write accepts its byte as the phase says, or ignores it, and then completes the command or does not (R65). -/
theorem busWriteData_accepts {b : Byte} {s t : State} (h : busWriteData b s = .next t) :
    ∃ u, (u = s ∨ (s.phase = .idle ∧ u = s.acceptCommandByte b) ∨ u = s.acceptParam b) ∧ u.CompletesTo t := by
  obtain rfl | ⟨hph, ht⟩ | ⟨-, ht⟩ := busWriteData_next_cases h
  · exact ⟨t, .inl rfl, .inl rfl⟩
  · exact ⟨_, .inr (.inl ⟨hph, rfl⟩), ht⟩
  · exact ⟨_, .inr (.inr rfl), ht⟩

/-- A data write outside Idle keeps the active command and the latched flags (R13, R66). -/
theorem busWriteData_selection {b : Byte} {s t : State} (h : busWriteData b s = .next t) (hph : s.phase ≠ .idle) :
    t.cmdIndex = s.cmdIndex ∧ t.flags = s.flags := by
  obtain ⟨u, hu, hend⟩ := busWriteData_accepts h
  obtain ⟨hindex, hflags, -⟩ := hend.frame
  obtain rfl | ⟨hidle, -⟩ | rfl := hu
  · exact ⟨hindex, hflags⟩
  · exact absurd hidle hph
  · exact ⟨hindex.trans (State.acceptParam_cmdIndex s b), hflags.trans (State.acceptParam_flags s b)⟩

/-- A data write changes the fields with a writer only as the command active after it may. -/
theorem busWriteData_writers {b : Byte} {s t : State} (h : busWriteData b s = .next t) : WriterFrame t.cmdIndex s t := by
  obtain ⟨u, hu, hend⟩ := busWriteData_accepts h
  obtain ⟨hindex, -, hwriters⟩ := hend.frame
  rw [hindex]
  refine WriterFrame.trans ?_ hwriters
  obtain rfl | ⟨-, rfl⟩ | rfl := hu
  · exact WriterFrame.of_eq _ rfl rfl rfl rfl
  · exact WriterFrame.acceptCommandByte _ s b
  · rw [State.acceptParam_cmdIndex]
    exact WriterFrame.acceptParam s b

/-- What a call of the host, the tick or the reset source may change of a drive record. -/
theorem handle_driveFrame {e : BusEvent} {s t : State} (henv : e.isEnvironment = false) (h : handle e s = .next t) (d : BitVec 2) :
    DriveFrame t.cmdIndex (s.drive d) (t.drive d) := by
  obtain ⟨-, rfl⟩ | ⟨henv', -⟩ | ⟨b, rfl, hwrite⟩ | hquiet := handle_next_cases h
  · exact DriveFrame.refl _ _
  · exact absurd henv' (by simp [henv])
  · exact (busWriteData_writers hwrite).drive d
  · exact (hquiet.writers _).drive d

end Sys2Proof.Machine

namespace Sys2Proof.Proofs

open Sys2Proof.Machine

/-- Settles O29: of the calls that write either field, a data write outside Idle runs a command whose flags are the latched ones. -/
theorem onlyAnIdleWriteSelectsACommand : Obligations.OnlyAnIdleWriteSelectsACommand := by
  intro s t e rest hin hstep hchange
  rw [step_cons hin] at hstep
  obtain ⟨hreset, -⟩ | ⟨-, d, r, rfl⟩ | ⟨b, rfl, hwrite⟩ | hquiet := handle_next_cases hstep
  · exact .inl hreset
  · exact absurd hchange (by simp)
  · refine .inr ⟨?_, b, rfl⟩
    by_contra hph
    obtain ⟨hindex, hflags⟩ := busWriteData_selection hwrite hph
    exact absurd hchange (by simp [hindex, hflags])
  · exact absurd hchange (by simp [hquiet.cmdIndex, hquiet.flags])

/-- Settles O30, by the frame of a data write: every other call but a reset leaves the seek states alone. -/
theorem seekStateHasThreeWriters : Obligations.SeekStateHasThreeWriters := by
  intro s t e rest hin hstep hchange
  rw [step_cons hin] at hstep
  obtain ⟨hreset, -⟩ | ⟨-, d, r, rfl⟩ | ⟨b, rfl, hwrite⟩ | hquiet := handle_next_cases hstep
  · exact .inl hreset
  · exact absurd rfl hchange
  · refine .inr ⟨⟨b, rfl⟩, ?_⟩
    by_contra hindex
    simp only [not_or] at hindex
    obtain ⟨h11, h12, h13⟩ := hindex
    exact hchange ((busWriteData_writers hwrite).seek h11 h12 h13)
  · exact absurd hquiet.seek hchange

/-- Settles O31, by the frame of each call on a drive record. -/
theorem controllerWritesTrackAndSectorIndexOnly : Obligations.ControllerWritesTrackAndSectorIndexOnly := by
  intro s t e rest hin henv hstep d
  rw [step_cons hin] at hstep
  obtain ⟨hready, hprotect, hdisk, htrack, hsector⟩ := handle_driveFrame henv hstep d
  refine ⟨hready, hprotect, hdisk, fun hchange => ?_, fun hchange => ?_⟩
  · by_contra hindex
    simp only [not_or] at hindex
    exact hchange (htrack hindex.1 hindex.2)
  · by_contra hindex
    exact hchange (hsector hindex)

/-- Settles O32, by the frame of a data write: every other call but a reset leaves both fields alone. -/
theorem specifyFieldsAndST3HaveOneWriter : Obligations.SpecifyFieldsAndST3HaveOneWriter := by
  intro s t e rest hin hreset hstep
  rw [step_cons hin] at hstep
  obtain ⟨hreset', -⟩ | ⟨-, d, r, rfl⟩ | ⟨b, rfl, hwrite⟩ | hquiet := handle_next_cases hstep
  · exact absurd hreset' (by simp [hreset])
  · exact ⟨absurd rfl, absurd rfl⟩
  · have hwriters := busWriteData_writers hwrite
    exact ⟨fun h => by_contra fun hindex => h (hwriters.times hindex), fun h => by_contra fun hindex => h (hwriters.st3 hindex)⟩
  · exact ⟨absurd hquiet.times, absurd hquiet.st3⟩

/-- Settles O14: R29's table, entry by entry; the empty execution memory reads 0 everywhere. -/
theorem resetStateIsTheTable : Obligations.ResetStateIsTheTable := by
  have hseek : ∀ d, State.reset.seekState d = .seekIdle := by decide
  have hdrive : ∀ d, State.reset.drive d = ⟨false, false, 0, 0, none⟩ := by decide
  exact ⟨rfl, rfl, rfl, rfl, fun _ => rfl, rfl, rfl, rfl, rfl, rfl, rfl, rfl, rfl, rfl, rfl, hseek, rfl, hdrive⟩

end Sys2Proof.Proofs
end

section
/-! PROOFS. The parameter parsers (40_phase_machine_and_dispatch.md R67 to R71): what one accepted byte writes into `P`, and that
`P` is what all the accepted bytes say. -/

namespace Sys2Proof

/-- A byte of a parameter list that one more byte is put behind. -/
theorem paramAt_concat (q : List Byte) (b : Byte) (k : Nat) : paramAt (q ++ [b]) k = if k = q.length then b else paramAt q k := by
  simp only [paramAt, List.getD_eq_getElem?_getD]
  rcases Nat.lt_trichotomy k q.length with hk | hk | hk
  · rw [List.getElem?_append_left hk, if_neg (Nat.ne_of_lt hk)]
  · simp [hk]
  · rw [if_neg (Nat.ne_of_gt hk), List.getElem?_eq_none (by simp; omega), List.getElem?_eq_none (Nat.le_of_lt hk)]

end Sys2Proof

namespace Sys2Proof.Machine

/-- `P` after byte `k` of a command of layout `l` (R68 to R71). -/
def storeParameter (l : ParamLayout) (k : Nat) (b : Byte) (p : CommandParameters) : CommandParameters :=
  match l with
  | .standard => if k = 0 then p.setHeadUnit (HeadUnit.ofByte b) else p.setStandard k b false
  | .scan => if k = 0 then p.setHeadUnit (HeadUnit.ofByte b) else p.setStandard k b true
  | .headUnit => if k = 0 then p.setHeadUnit (HeadUnit.ofByte b) else p
  | .seek => if k = 0 then p.setHeadUnit (HeadUnit.ofByte b) else if k = 1 then { p with c := b } else p
  | .specify => p
  | .empty => p

theorem State.parseStandard_p (scan : Bool) (k : Nat) (b : Byte) (s : State) :
    (s.parseStandard scan k b).p = if k = 0 then s.p.setHeadUnit (HeadUnit.ofByte b) else s.p.setStandard k b scan := by
  cases k <;> rfl

/-- An accepted byte is stored into `P` by the active command's layout. -/
theorem State.acceptParam_p (s : State) (b : Byte) :
    (s.acceptParam b).p = storeParameter s.active.layout s.comm.counter b s.p := by
  simp only [State.acceptParam, State.parseParamByte, State.active, storeParameter]
  cases (descriptor s.cmdIndex).layout <;> dsimp only
  case standard => exact State.parseStandard_p ..
  case scan => exact State.parseStandard_p ..
  case headUnit => split <;> rfl
  case seek => split <;> [rfl; (split <;> rfl)]
  case specify => exact State.parseSpecify_p ..

/-- A lone Head/UnitSelect byte is at position 0. -/
theorem headUnitParameters_concat (q : List Byte) (b : Byte) :
    headUnitParameters (HeadUnit.ofByte (paramAt (q ++ [b]) 0)) =
      if q.length = 0 then (headUnitParameters (HeadUnit.ofByte (paramAt q 0))).setHeadUnit (HeadUnit.ofByte b)
      else headUnitParameters (HeadUnit.ofByte (paramAt q 0)) := by
  rw [paramAt_concat]
  by_cases h : q.length = 0
  · simp only [h, if_true]
    rfl
  · rw [if_neg h, if_neg (Ne.symm h)]

/-- One byte more, within the eight positions the parsers know, is one store more. -/
theorem parsedParameters_concat (l : ParamLayout) {q : List Byte} (b : Byte) (h : q.length < 8) :
    parsedParameters l (q ++ [b]) = storeParameter l q.length b (parsedParameters l q) := by
  cases l <;> dsimp only [parsedParameters, storeParameter]
  case headUnit => exact headUnitParameters_concat q b
  all_goals
    simp only [stdParameters, StdOperands.ofBytes, seekParameters, paramAt_concat]
    generalize q.length = n at h
    interval_cases n <;> rfl

theorem State.accepted_length {s : State} (h : s.comm.counter < 9) : s.accepted.length = s.comm.counter := by
  simp only [State.accepted, List.length_take, Vector.length_toList]
  omega

/-- Accepting a byte keeps `P` what the accepted bytes say. -/
theorem State.acceptParam_parsed {s : State} (b : Byte) (hroom : s.comm.counter < 8)
    (h : s.p = parsedParameters s.active.layout s.accepted) :
    (s.acceptParam b).p = parsedParameters (s.acceptParam b).active.layout (s.acceptParam b).accepted := by
  have hlen := State.accepted_length (s := s) (by omega)
  have hactive : (s.acceptParam b).active = s.active := by simp [State.active]
  rw [State.acceptParam_p, hactive, State.accepted_acceptParam s b (by omega), parsedParameters_concat _ b (by omega), hlen, ← h]

/-- No accepted byte, no parameter (R67). -/
theorem parsedParameters_nil (l : ParamLayout) : parsedParameters l [] = CommandParameters.zero := by
  cases l <;> decide

/-- SPECIFY's first byte stores its two fields (R92). -/
theorem State.acceptParam_specifyTimes {s : State} (b : Byte) (hlayout : s.active.layout = .specify) (h : s.comm.counter = 0) :
    (s.acceptParam b).times = s.times.setByte0 (SpecifyOperands.ofBytes b 0).srt (SpecifyOperands.ofBytes b 0).hut := by
  simp only [State.active] at hlayout
  simp only [State.acceptParam, State.parseParamByte, hlayout, h]
  rfl

end Sys2Proof.Machine
end

section
/-! PROOFS. The invariant (10_state.md R28) at reset and through every step. -/

namespace Sys2Proof.Machine

/-! ## Ways to the invariant -/

/-- The invariant speaks of none of these fields. -/
theorem Inv.of_unread {s : State} (h : Inv s) (counters : Countdown) (bank : StatusBank) (lastReceived lastToSend : Byte)
    (seek : Vector SeekState 4) (driveIndex : BitVec 2) (drives : Vector DriveRecord 4) (dout : Byte) (inbox : List BusEvent) :
    Inv { s with counters := counters, bank := bank, lastReceived := lastReceived, lastToSend := lastToSend, seek := seek,
                 driveIndex := driveIndex, drives := drives, dout := dout, inbox := inbox } := by
  obtain ⟨h1, h2, h3, h4, h5, h6, h7, h8, h9, h10, h11, h12, h13, h14⟩ := h
  exact ⟨h1, h2, h3, h4, h5, h6, h7, h8, h9, h10, h11, h12, h13, h14⟩

/-- Outside Command the invariant has no more clauses than these. -/
theorem Inv.of_phase_ne_command {t : State} (hphase : t.phase ≠ .command) (paramBound : t.comm.counter ≤ t.active.paramCount)
    (resultBound : t.res.counter ≤ t.res.length) (resultSize : t.res.length ≤ 7)
    (resultStrict : t.phase = .result → t.res.counter < t.res.length) (execBound : t.xbuf.counter ≤ t.xbuf.length)
    (execLength : t.xbuf.length ≤ execBufSize) (fits : t.xbuf.Fits)
    (execPhase : t.phase = .execution → 1 ≤ t.xbuf.counter ∧ t.active.direction = .out ∧ t.res.counter < t.res.length)
    (flagsAllowed : illegalFlags t.active (commandByte t.flags.mt t.flags.mf t.flags.sk 0) = false) : Inv t where
  paramBound := paramBound
  paramStrict h := absurd h hphase
  resultBound := resultBound
  resultSize := resultSize
  resultStrict := resultStrict
  execBound := execBound
  execSize := ⟨execLength, fits.wr⟩
  execPhase := execPhase
  beginPhase h := absurd h hphase
  stubPhase h := absurd h hphase
  flagsAllowed := flagsAllowed
  parsed h := absurd h hphase
  specifyParsed h := absurd h hphase
  memory := fits.ok

theorem Inv.fits {s : State} (h : Inv s) : s.xbuf.Fits := ⟨h.memory, h.execSize.2⟩

/-- The state after the reset source's call (R29, R121). -/
theorem Inv.resetController (s : State) : Inv s.resetController :=
  .of_phase_ne_command nofun (Nat.zero_le _) (Nat.le_refl _) (Nat.zero_le _) nofun (Nat.le_refl _) (Nat.zero_le _)
    (ExecBuffer.fits_clear State.reset.xbuf) nofun
    (by decide : illegalFlags (descriptor 15) (commandByte false false false 0) = false)

/-! ## Reads of the data register (R64) -/

/-- A result byte served: the next one is there, or the phase is Idle. -/
theorem Inv.readResultByte {s t : State} (h : Inv s) (hph : s.phase = .result) (hread : s.readResultByte = .next t) : Inv t := by
  have hlt := h.resultStrict hph
  unfold State.readResultByte at hread
  split at hread
  · obtain rfl := Host.Outcome.next.inj hread
    by_cases hlast : s.res.counter + 1 = s.res.length <;> simp only [hlast, if_true, if_false, hph]
    · exact .of_phase_ne_command nofun h.paramBound (Nat.le_refl _) h.resultSize nofun h.execBound h.execSize.1 h.fits nofun
        h.flagsAllowed
    · exact .of_phase_ne_command nofun h.paramBound hlt h.resultSize (fun _ => Nat.lt_of_le_of_ne hlt hlast) h.execBound
        h.execSize.1 h.fits nofun h.flagsAllowed
  · exact absurd hread (by simp)

/-- An execution byte served: the next one is there, or the phase is Result with its bytes unread. -/
theorem Inv.readExecByte {s t : State} (h : Inv s) (hph : s.phase = .execution) (hread : s.readExecByte = .next t) : Inv t := by
  obtain ⟨hbyte, hdirection, hresult⟩ := h.execPhase hph
  have hbound := Nat.le_trans (Nat.sub_le s.xbuf.counter 1) h.execBound
  unfold State.readExecByte at hread
  simp only at hread
  split at hread
  · obtain rfl := Host.Outcome.next.inj hread
    have hfits : ({ s.xbuf with counter := s.xbuf.counter - 1 } : ExecBuffer).Fits := ⟨h.fits.ok, h.fits.wr⟩
    by_cases hlast : s.xbuf.counter - 1 = 0
    · rw [if_pos hlast]
      exact .of_phase_ne_command nofun h.paramBound h.resultBound h.resultSize (fun _ => hresult) hbound h.execSize.1 hfits nofun
        h.flagsAllowed
    · rw [if_neg hlast, hph]
      exact .of_phase_ne_command nofun h.paramBound h.resultBound h.resultSize nofun hbound h.execSize.1 hfits
        (fun _ => ⟨Nat.pos_of_ne_zero hlast, hdirection, hresult⟩) h.flagsAllowed
  · exact absurd hread (by simp)

theorem Inv.readDefaultByte {s : State} (h : Inv s) : Inv s.readDefaultByte :=
  h.of_unread _ _ _ _ _ _ _ _ _

theorem Inv.busReadData {s t : State} (h : Inv s) (hread : busReadData s = .next t) : Inv t := by
  unfold Sys2Proof.Machine.busReadData at hread
  split at hread
  · rename_i hph
    split at hread
    · exact h.readExecByte hph hread
    · exact Host.Outcome.next.inj hread ▸ h.readDefaultByte
  · rename_i hph
    exact h.readResultByte hph hread
  · exact Host.Outcome.next.inj hread ▸ h.readDefaultByte
  · exact Host.Outcome.next.inj hread ▸ h.readDefaultByte

/-! ## Accepting a byte (R65 to R67) -/

/-- A state whose command has all its bytes and has not been completed: the cursors are at their begin-of-command values. -/
structure State.Begun (s : State) : Prop where
  paramCount : s.comm.counter = s.active.paramCount
  resCounter : s.res.counter = 0
  resLength : s.res.length = s.active.resultCount
  execCounter : s.xbuf.counter = 0
  execLength : s.xbuf.length = 0
  fits : s.xbuf.Fits
  flagsAllowed : illegalFlags s.active (commandByte s.flags.mt s.flags.mf s.flags.sk 0) = false

/-- The flags of a command byte are ones the entry it selects allows (R50). -/
theorem illegalFlags_of_byte (b : Byte) :
    illegalFlags (descriptor (selectIndex b)) (commandByte (mtOf b) (mfOf b) (skOf b) 0) = false := by
  rw [illegalFlags_opcode _ _ _ _ _ (opcodeOf b), commandByte_fields]
  exact illegalFlags_selectIndex b

theorem resultCount_le_seven (j : Fin 16) : (descriptor j).resultCount ≤ 7 := by
  revert j; decide

/-- Beginning a command resets its cursors (R67). -/
theorem ExecBuffer.Fits.beginCommand {x : ExecBuffer} (h : x.Fits) :
    ({ x with wr := 0, length := 0, counter := 0 } : ExecBuffer).Fits :=
  ⟨h.ok, Nat.zero_le _⟩

theorem Inv.acceptCommandByte {s : State} (h : Inv s) {b : Byte} (hparams : (descriptor (selectIndex b)).paramCount ≠ 0)
    (hstub : (descriptor (selectIndex b)).kind = .stub → s.policy = .wedge) : Inv (s.acceptCommandByte b) where
  paramBound := Nat.zero_le _
  paramStrict _ := Nat.pos_of_ne_zero hparams
  resultBound := Nat.zero_le _
  resultSize := resultCount_le_seven _
  resultStrict := nofun
  execBound := Nat.le_refl _
  execSize := ⟨Nat.zero_le _, Nat.zero_le _⟩
  execPhase := nofun
  beginPhase _ := ⟨rfl, rfl, rfl, rfl, rfl⟩
  stubPhase _ := hstub
  flagsAllowed := illegalFlags_of_byte b
  parsed _ := (parsedParameters_nil _).symm
  specifyParsed _ _ h1 := absurd h1 (by simp)
  memory := h.fits.beginCommand.ok

theorem State.Begun.acceptCommandByte {s : State} (h : Inv s) {b : Byte}
    (hparams : (descriptor (selectIndex b)).paramCount = 0) : (s.acceptCommandByte b).Begun where
  paramCount := hparams.symm
  resCounter := rfl
  resLength := rfl
  execCounter := rfl
  execLength := rfl
  fits := h.fits.beginCommand
  flagsAllowed := illegalFlags_of_byte b

theorem State.acceptParam_active (s : State) (b : Byte) : (s.acceptParam b).active = s.active := by
  simp [State.active]

/-- In Command there is room for a byte (R28). -/
theorem Inv.room {s : State} (h : Inv s) (hph : s.phase = .command) : s.comm.counter < 8 :=
  Nat.lt_of_lt_of_le (h.paramStrict hph) (paramCount_le_eight _)

theorem Inv.acceptParam {s : State} (h : Inv s) (hph : s.phase = .command) (b : Byte)
    (hmore : s.comm.counter + 1 < s.active.paramCount) : Inv (s.acceptParam b) := by
  have hactive := s.acceptParam_active b
  have hroom := h.room hph
  constructor
  case parsed => exact fun _ => State.acceptParam_parsed b hroom (h.parsed hph)
  case specifyParsed =>
    intro _ hlayout hone
    rw [hactive] at hlayout
    have hzero : s.comm.counter = 0 := by simpa using hone
    have haccepted : (s.acceptParam b).accepted = [b] := by
      rw [State.accepted_acceptParam s b (by omega)]
      simp [State.accepted, hzero]
    rw [State.acceptParam_specifyTimes b hlayout hzero, haccepted]
    exact ⟨rfl, rfl⟩
  case paramBound => simp only [hactive, State.acceptParam_comm]; omega
  case paramStrict => simp only [hactive, State.acceptParam_comm]; exact fun _ => hmore
  case execPhase => simp [hph]
  case resultStrict => simp [hph]
  case beginPhase => simpa only [hactive, State.acceptParam_phase, State.acceptParam_res, State.acceptParam_xbuf] using h.beginPhase
  case stubPhase => simpa only [hactive, State.acceptParam_phase, State.acceptParam_policy] using h.stubPhase
  case flagsAllowed => simpa only [hactive, State.acceptParam_flags] using h.flagsAllowed
  case resultBound => simpa only [State.acceptParam_res] using h.resultBound
  case resultSize => simpa only [State.acceptParam_res] using h.resultSize
  case execBound => simpa only [State.acceptParam_xbuf] using h.execBound
  case execSize => simpa only [State.acceptParam_xbuf] using h.execSize
  case memory => simpa only [State.acceptParam_xbuf] using h.memory

theorem State.Begun.acceptParam {s : State} (h : Inv s) (hph : s.phase = .command) {b : Byte}
    (hlast : s.comm.counter + 1 = s.active.paramCount) : (s.acceptParam b).Begun := by
  have hactive := s.acceptParam_active b
  obtain ⟨hres, hresLength, -, hlength, hcounter⟩ := h.beginPhase hph
  constructor <;>
    simp only [hactive, State.acceptParam_comm, State.acceptParam_res, State.acceptParam_xbuf, State.acceptParam_flags]
  case paramCount => exact hlast
  case resCounter => exact hres
  case resLength => exact hresLength
  case execCounter => exact hcounter
  case execLength => exact hlength
  case fits => exact h.fits
  case flagsAllowed => exact h.flagsAllowed

/-! ## Completing a command (R72) -/

/-- A completed command's states: the result bytes it announced are unread, and Execution has bytes to serve. -/
structure State.Completed (t : State) : Prop where
  phase : t.phase ≠ .command
  resSize : t.res.length ≤ 7
  resPending : t.phase ≠ .idle → 0 < t.res.length
  execCounter : t.xbuf.counter = t.xbuf.length
  execLength : t.xbuf.length ≤ execBufSize
  fits : t.xbuf.Fits
  execution : t.phase = .execution → 0 < t.xbuf.length ∧ t.active.direction = .out

/-- A read command with its seven result bytes (R56). -/
theorem ReadEnd.completed {s t : State} (h : ReadEnd s t) (hresult : s.active.resultCount = 7)
    (hdirection : s.active.direction = .out) (hlength : s.res.length = s.active.resultCount) : t.Completed := by
  have hres : t.res.length = 7 := by rw [h.frame.resLength, hlength, hresult]
  have hactive : t.active = s.active := by simp only [State.active, h.frame.cmdIndex]
  have hphase := h.phase
  refine ⟨?_, by omega, fun _ => by omega, h.counter, h.length, h.fits, fun hexec => ⟨?_, hactive ▸ hdirection⟩⟩
  · split at hphase <;> simp [hphase]
  · by_contra hzero
    rw [if_neg hzero, hexec] at hphase
    exact Phase.noConfusion hphase

/-- A command that leaves the execution buffer as it was begun. -/
theorem State.Begun.completed {s t : State} (h : s.Begun) (hxbuf : t.xbuf = s.xbuf) (hsize : t.res.length ≤ 7)
    (hphase : t.phase = .idle ∨ t.phase = .result ∧ 0 < t.res.length) : t.Completed := by
  refine ⟨?_, hsize, ?_, ?_, ?_, hxbuf ▸ h.fits, ?_⟩
  · intro hcommand
    simp [hcommand] at hphase
  · exact fun hidle => (hphase.resolve_left hidle).2
  · rw [hxbuf, h.execCounter, h.execLength]
  · rw [hxbuf, h.execLength]
    exact Nat.zero_le _
  · intro hexec
    simp [hexec] at hphase

theorem State.Begun.resLength_le {s : State} (h : s.Begun) : s.res.length ≤ 7 := h.resLength ▸ resultCount_le_seven _

/-- READ_ID (R86). -/
theorem execReadId_completed {mf : Bool} {hu : HeadUnit} {s t : State} (hs : s.Begun) (hactive : s.active = descriptor 3)
    (h : execReadId mf hu s = .next t) : t.Completed := by
  have hresult : s.active.resultCount = 7 := by rw [hactive]; rfl
  have hlength := hs.resLength.trans hresult
  obtain ⟨x, rfl⟩ | ⟨d, n, k, x, rfl⟩ := execReadId_next_cases h
  · have hstart : ReadProgress (s.readIdStart mf hu) (s.readIdStart mf hu) := ⟨ReadFrame.refl _, rfl, rfl, hs.fits⟩
    exact (hstart.raiseCondition x).completed hresult (by show s.active.direction = .out; rw [hactive]; rfl) hs.resLength
  · exact hs.completed rfl hs.resLength_le (.inr ⟨rfl, by show 0 < s.res.length; omega⟩)

/-- SENSE_INTERRUPT_STATUS: two result bytes or one (R90). -/
theorem execSenseInterruptStatus_completed {s t : State} (hs : s.Begun) (h : execSenseInterruptStatus s = .next t) :
    t.Completed := by
  simp only [execSenseInterruptStatus] at h
  split at h <;> obtain rfl := Host.Outcome.next.inj h <;>
    exact hs.completed rfl (by simp [ResultBuffer.one, ResultBuffer.two])
      (.inr ⟨rfl, by simp [ResultBuffer.one, ResultBuffer.two]⟩)

/-- Every command but a stub completes, from the state in which all its bytes have been accepted. -/
theorem exec_completed {i : Instr} {s t : State} (hs : s.Begun) (hindex : i.index = s.cmdIndex) (hkind : s.active.kind ≠ .stub)
    (h : exec i s = .next t) : t.Completed := by
  have hactive : s.active = descriptor i.index := by rw [hindex]; rfl
  have hread : s.active.resultCount = (descriptor i.index).resultCount ∧ s.active.direction = (descriptor i.index).direction := by
    rw [hactive]; exact ⟨rfl, rfl⟩
  rw [hactive] at hkind
  cases i with
  | readData mt mf sk a => exact (State.completeRead_readEnd h).completed hread.1 hread.2 hs.resLength
  | readDeletedData mt mf sk a => exact (State.completeRead_readEnd h).completed hread.1 hread.2 hs.resLength
  | readDiagnostic mf sk a => exact (execReadDiagnostic_readEnd h).completed hread.1 hread.2 hs.resLength
  | readId mf hu => exact execReadId_completed hs hactive h
  | writeData mt mf a => exact absurd rfl hkind
  | writeId mf a => exact absurd rfl hkind
  | writeDeletedData mt mf a => exact absurd rfl hkind
  | scanEqual mt mf sk a => exact absurd rfl hkind
  | scanLowOrEqual mt mf sk a => exact absurd rfl hkind
  | scanHighOrEqual mt mf sk a => exact absurd rfl hkind
  | specify a => exact Host.Outcome.next.inj h ▸ hs.completed rfl hs.resLength_le (.inl rfl)
  | seek hu ncn => exact Host.Outcome.next.inj h ▸ hs.completed rfl hs.resLength_le (.inl rfl)
  | recalibrate hu => exact Host.Outcome.next.inj h ▸ hs.completed rfl hs.resLength_le (.inl rfl)
  | senseInterruptStatus => exact execSenseInterruptStatus_completed hs h
  | senseDriveStatus hu =>
    exact Host.Outcome.next.inj h ▸ hs.completed rfl (by simp [ResultBuffer.one]) (.inr ⟨rfl, by simp [ResultBuffer.one]⟩)
  | invalid mt mf sk op =>
    exact Host.Outcome.next.inj h ▸ hs.completed rfl (by simp [ResultBuffer.one]) (.inr ⟨rfl, by simp [ResultBuffer.one]⟩)

/-- The completion of the active command, all of whose bytes have been accepted, gives the invariant. -/
theorem State.Begun.inv_of_exec {s t : State} {op : BitVec 5} (hs : s.Begun) (hkind : s.active.kind ≠ .stub)
    (h : exec (s.fetched op) s = .next t) : Inv t := by
  have hframe := exec_frame h
  have hactive : t.active = s.active := by simp only [State.active, hframe.cmdIndex]
  have hflags := hframe.flags.trans (latchedFlags_fetched s op)
  have hcounter := hframe.resCounter.trans hs.resCounter
  obtain ⟨hphase, hsize, hpending, hexecCounter, hexecLength, hfits, hexec⟩ := exec_completed hs (s.fetched_index op) hkind h
  refine .of_phase_ne_command hphase ?_ (by omega) hsize ?_ (Nat.le_of_eq hexecCounter) hexecLength hfits ?_ ?_
  · rw [hframe.comm, hactive, hs.paramCount]
  · intro hresult
    have := hpending (by simp [hresult])
    omega
  · intro hexecution
    have := hpending (by simp [hexecution])
    obtain ⟨hbytes, hdirection⟩ := hexec hexecution
    exact ⟨by omega, hdirection, by omega⟩
  · rw [hactive, hflags]
    exact hs.flagsAllowed

/-! ## Data writes (R65) -/

theorem Inv.writeIdle {s t : State} {b : Byte} (h : Inv s) (hwrite : writeIdle b s = .next t) : Inv t := by
  rw [writeIdle_eq] at hwrite
  by_cases hstub : (descriptor (selectIndex b)).kind = .stub
  · rw [if_pos (.inl hstub), exec_stub (by simpa using hstub)] at hwrite
    obtain ⟨hpolicy, rfl⟩ := State.stubRoutine_next hwrite
    refine h.acceptCommandByte (fun hzero => ?_) (fun _ => hpolicy)
    rcases (paramCount_eq_zero _).1 hzero with hindex | hindex <;> exact absurd hstub (by rw [hindex]; decide)
  · by_cases hparams : (descriptor (selectIndex b)).paramCount = 0
    · rw [if_pos (.inr hparams)] at hwrite
      exact (State.Begun.acceptCommandByte h hparams).inv_of_exec hstub hwrite
    · rw [if_neg (by simp [hstub, hparams])] at hwrite
      exact Host.Outcome.next.inj hwrite ▸ h.acceptCommandByte hparams (fun hkind => absurd hkind hstub)

theorem Inv.writeCommand {s t : State} {b : Byte} (h : Inv s) (hph : s.phase = .command) (hwrite : writeCommand b s = .next t) :
    Inv t := by
  have hroom := h.room hph
  by_cases hstub : (descriptor s.cmdIndex).kind = .stub
  · rw [Sys2Proof.Machine.writeCommand, if_pos hstub, exec_stub (by simpa using hstub)] at hwrite
    obtain ⟨-, rfl⟩ := State.stubRoutine_next hwrite
    exact h
  · rw [writeCommand_eq b hstub (by omega)] at hwrite
    by_cases hlast : s.comm.counter + 1 = (descriptor s.cmdIndex).paramCount
    · rw [if_pos hlast] at hwrite
      exact (State.Begun.acceptParam h hph hlast).inv_of_exec (by rwa [State.acceptParam_active]) hwrite
    · rw [if_neg hlast] at hwrite
      exact Host.Outcome.next.inj hwrite ▸ h.acceptParam hph b (Nat.lt_of_le_of_ne (h.paramStrict hph) hlast)

theorem Inv.busWriteData {s t : State} {b : Byte} (h : Inv s) (hwrite : busWriteData b s = .next t) : Inv t := by
  unfold Sys2Proof.Machine.busWriteData at hwrite
  split at hwrite
  · exact h.writeIdle hwrite
  · rename_i hph
    exact h.writeCommand hph hwrite
  · rename_i hph
    split at hwrite
    · exact Host.Outcome.next.inj hwrite ▸ h
    · rename_i hdirection
      exact absurd ((h.execPhase hph).2.1.symm.trans hdirection) (by simp)
  · exact Host.Outcome.next.inj hwrite ▸ h

/-! ## Every call -/

theorem Inv.handle {e : BusEvent} {s t : State} (h : Inv s) (hcall : handle e s = .next t) : Inv t := by
  match e, hcall with
  | .read .msr, hcall => exact Host.Outcome.next.inj hcall ▸ h.of_unread _ _ _ _ _ _ _ _ _
  | .read .data, hcall => exact h.busReadData hcall
  | .write .msr _, hcall => exact Host.Outcome.next.inj hcall ▸ h
  | .write .data b, hcall => exact h.busWriteData hcall
  | .tick, hcall => exact Host.Outcome.next.inj hcall ▸ h.of_unread _ _ _ _ _ _ _ _ _
  | .reset, hcall => exact Host.Outcome.next.inj hcall ▸ Inv.resetController s
  | .setDrive d r, hcall => exact Host.Outcome.next.inj hcall ▸ h.of_unread _ _ _ _ _ _ _ _ _

end Sys2Proof.Machine

namespace Sys2Proof.Proofs

open Sys2Proof.Machine

/-- Settles O22: the reset call leaves State.reset as it is. -/
theorem resetMeetsTheInvariant : Obligations.ResetMeetsTheInvariant := Inv.resetController State.reset

/-- Settles O23: no step without a call changes anything, and every call keeps the invariant, which does not speak of the calls
still to come. -/
theorem everyStepKeepsTheInvariant : Obligations.EveryStepKeepsTheInvariant := by
  intro s t h hstep
  obtain ⟨-, rfl⟩ | ⟨e, rest, -, hcall⟩ := step_next_cases hstep
  · exact h
  · exact (h.of_unread _ _ _ _ _ _ _ _ rest).handle hcall

end Sys2Proof.Proofs
end

section
/-! PROOFS. The execution buffer drained byte by byte (20_memory.md R38, 40_phase_machine_and_dispatch.md R64, R76 c). -/

namespace Sys2Proof.Machine

/-! ## One execution byte -/

/-- The state after an Execution-phase data read, with the calls still to come (R64). -/
def State.execByteRead (s : State) (rest : List BusEvent) : State :=
  { s with inbox := rest, xbuf := { s.xbuf with counter := s.xbuf.counter - 1 },
           phase := if s.xbuf.counter = 1 then .result else .execution,
           lastToSend := s.xbuf.mem.read (s.xbuf.length - s.xbuf.counter),
           dout := s.xbuf.mem.read (s.xbuf.length - s.xbuf.counter) }

/-- The step of a data read in Execution of a controller-to-CPU command (R64). -/
theorem step_execByteRead {s : State} {rest : List BusEvent} (hin : s.inbox = .read .data :: rest) (hph : s.phase = .execution)
    (hdir : s.active.direction = .out) (hpos : 0 < s.xbuf.counter) (hbound : s.xbuf.counter ≤ s.xbuf.length)
    (hsize : s.xbuf.length ≤ 32768) : step s = .next (s.execByteRead rest) := by
  have hlast : s.xbuf.counter - 1 = 0 ↔ s.xbuf.counter = 1 := by omega
  have hindex : s.xbuf.length - s.xbuf.counter < execBufSize := by
    unfold execBufSize
    omega
  simp only [State.active] at hdir
  simp only [step_cons hin, handle, busReadData, hph, hdir, State.readExecByte, hpos, hbound, hindex, hlast, and_self, if_true,
    State.execByteRead]

/-! ## Any number of them -/

/-- A controller-to-CPU command between the first execution byte and the one after the last: Execution while bytes are left, then
Result (R76 c). -/
structure State.Draining (s : State) : Prop where
  phase : s.phase = if s.xbuf.counter = 0 then .result else .execution
  direction : s.active.direction = .out
  bound : s.xbuf.counter ≤ s.xbuf.length
  size : s.xbuf.length ≤ 32768

theorem State.Draining.execByteRead {s : State} (h : s.Draining) (hpos : 0 < s.xbuf.counter) (rest : List BusEvent) :
    (s.execByteRead rest).Draining where
  phase := by
    have hlast : s.xbuf.counter = 1 ↔ s.xbuf.counter - 1 = 0 := by omega
    simp only [State.execByteRead, hlast]
  direction := h.direction
  bound := Nat.le_trans (Nat.sub_le _ _) h.bound
  size := h.size

/-- `t` is `s` with `k` execution bytes served: the last of them is on `dout`, and the buffer's bytes and the result stand as
they did. -/
structure State.ServedBytes (k : Nat) (s t : State) : Prop where
  counter : t.xbuf.counter + k = s.xbuf.counter
  mem : t.xbuf.mem = s.xbuf.mem
  length : t.xbuf.length = s.xbuf.length
  res : t.res = s.res
  dout : t.dout = if k = 0 then s.dout else s.xbuf.mem.read (s.xbuf.length - s.xbuf.counter + k - 1)

theorem State.ServedBytes.zero (s : State) : s.ServedBytes 0 s := ⟨rfl, rfl, rfl, rfl, rfl⟩

/-- One byte, and then `k` bytes. -/
theorem State.ServedBytes.succ {s t : State} {rest : List BusEvent} {k : Nat} (hpos : 0 < s.xbuf.counter)
    (hbound : s.xbuf.counter ≤ s.xbuf.length) (h : (s.execByteRead rest).ServedBytes k t) : s.ServedBytes (k + 1) t where
  counter := by
    have hcounter : t.xbuf.counter + k = s.xbuf.counter - 1 := h.counter
    omega
  mem := h.mem
  length := h.length
  res := h.res
  dout := by
    rw [h.dout, if_neg k.succ_ne_zero]
    simp only [State.execByteRead]
    split <;> congr 1 <;> omega

/-- `k` data reads, with at least `k` bytes left, serve `k` bytes. -/
theorem State.Draining.run {s : State} (h : s.Draining) (rest : List BusEvent) (k : Nat) (hk : k ≤ s.xbuf.counter)
    (hin : s.inbox = dataReads k ++ rest) : ∃ t, run k s = .next t ∧ t.inbox = rest ∧ t.Draining ∧ s.ServedBytes k t := by
  induction k generalizing s with
  | zero => exact ⟨s, rfl, hin, h, .zero s⟩
  | succ k ih =>
    have hpos : 0 < s.xbuf.counter := by omega
    have hph : s.phase = .execution := h.phase.trans (if_neg hpos.ne')
    have hleft : k ≤ s.xbuf.counter - 1 := by omega
    obtain ⟨t, hrun, hrest, hdraining, hserved⟩ := ih (h.execByteRead hpos (dataReads k ++ rest)) hleft rfl
    refine ⟨t, ?_, hrest, hdraining, hserved.succ hpos h.bound⟩
    exact (run_succ_of_next (step_execByteRead hin hph h.direction hpos h.bound h.size)).trans hrun

end Sys2Proof.Machine

namespace Sys2Proof.Proofs

open Sys2Proof.Machine

/-- Settles O28: `k` data reads serve `k` bytes, and the phase is Result exactly where none is left. -/
theorem executionDrainServesTheBytesInOrder : Obligations.ExecutionDrainServesTheBytesInOrder := by
  intro s rest k hph hdir hpos hbound hsize hk hin
  have hs : s.Draining := ⟨hph.trans (if_neg hpos.ne').symm, hdir, hbound, hsize⟩
  obtain ⟨t, hrun, hrest, ht, hserved⟩ := hs.run rest k hk hin
  have hcounter := hserved.counter
  have hresult : t.phase = .result ↔ t.xbuf.counter = 0 := by
    by_cases h0 : t.xbuf.counter = 0 <;> simp [ht.phase, h0]
  have hexecution : t.phase = .execution ↔ t.xbuf.counter ≠ 0 := by
    by_cases h0 : t.xbuf.counter = 0 <;> simp [ht.phase, h0]
  refine ⟨t, hrun, hrest, hcounter, hserved.mem, hserved.length, hserved.res, ?_, ?_, ?_⟩
  · rw [hresult]
    omega
  · rw [hexecution]
    omega
  · exact fun hk0 => hserved.dout.trans (if_neg hk0.ne')

end Sys2Proof.Proofs
end

section
/-! PROOFS. The calls that change nothing or one drive record (20_memory.md R37, R42). -/

namespace Sys2Proof.Machine

/-- The phases in which a data write is ignored (R65). -/
theorem busWriteData_ignored {s : State} (b : Byte)
    (h : s.phase = .result ∨ (s.phase = .execution ∧ s.active.direction = .out)) : busWriteData b s = .next s := by
  obtain hph | ⟨hph, hdir⟩ := h
  · simp only [busWriteData, hph]
  · simp only [State.active] at hdir
    simp only [busWriteData, hph, hdir]

end Sys2Proof.Machine

namespace Sys2Proof.Proofs

open Sys2Proof.Machine

/-- Settles O9: the main status register takes no write in any phase, the data register none in these two. -/
theorem ignoredWritesChangeNothing : Obligations.IgnoredWritesChangeNothing := by
  intro s v rest
  constructor
  · intro hin
    exact step_cons hin
  · intro hin hph
    rw [step_cons hin]
    exact busWriteData_ignored (s := { s with inbox := rest }) v hph

/-- Settles O15, by the laws of the drive records by unit. -/
theorem environmentReplacesOneRecord : Obligations.EnvironmentReplacesOneRecord := by
  intro s d r rest hin
  refine ⟨_, step_cons hin, rfl, ?_, ?_⟩
  · exact State.drive_setDriveRecord_self _ d r
  · exact fun e he => State.drive_setDriveRecord_other _ r he

end Sys2Proof.Proofs
end

section
/-! PROOFS. The end of the execution buffer (20_memory.md R39): a read command that would copy past it is refused. -/

namespace Sys2Proof.Machine

/-! ## The two loops -/

/-- The diagnostic loop of a track too long for the buffer (R85). -/
theorem State.diagnosticLoop_overflow (s : State) {l : List Sector} (h : 32768 < totalData l) :
    s.sized.diagnosticLoop l = none := by
  refine (State.diagnosticLoop_spec l s.sized [] s.xbuf.holds_clear).2 ?_ (Nat.zero_le _)
  rwa [show s.sized.xbuf.wr = 0 from rfl, Nat.zero_add]

/-- A pass over a sector that does not fit after what was copied before it (R81). -/
theorem State.readLoop_overflow {w : Bool} {t : Track} {i : Nat} {x : Sector} {s : State}
    (hf : findSector t.sectors s.p.r = some (i, x)) (hs : (s.flags.sk && x.mismatch w) = false)
    (hov : 32768 < s.xbuf.wr + x.data.length) (n : Nat) : s.readLoop w t n = .refused .execBufferOverflow := by
  have hov' : s.xbuf.overflows x.data = true := decide_eq_true hov
  unfold State.readLoop
  simp only [hf, hs, hov', Bool.false_eq_true, if_false, if_true]

/-! ## The commands on a track under the head -/

/-- The two read commands (R83, R84). -/
theorem exec_readCommand (w mt mf sk : Bool) (a : StdOperands) (s : State) :
    exec (if w then .readDeletedData mt mf sk a else .readData mt mf sk a) s =
      (s.withOperands ⟨mt, mf, sk⟩ (stdParameters a)).completeRead w := by
  cases w <;> rfl

/-- With a track under the head of a ready unit, a read command is the sector loop on it (R78, R81). -/
theorem State.completeRead_of_track {w : Bool} {s : State} {f : CommandFlags} {p : CommandParameters} {t : Track}
    (h : s.isReady p.us = true) (ht : s.trackUnderHead p.us = some t) :
    (s.withOperands f p).completeRead w = (s.withOperands f p).sized.readLoop w t 255 := by
  simp only [State.completeRead, State.readPreamble_of_track h ht]

/-- The deleted address mark is bit 6 of the second status byte (R24, R77). -/
theorem Sector.deleted_eq (x : Sector) : x.deleted = x.st2.getLsbD 6 := by
  have hbit : ∀ b : Byte, testBits b st2CM = b.getLsbD 6 := by decide
  exact hbit x.st2

/-- A sector the command wants is not a mismatch (R77). -/
theorem Sector.mismatch_eq_false {w : Bool} {x : Sector} (h : x.st2.getLsbD 6 = w) : x.mismatch w = false := by
  rw [Sector.mismatch, Sector.deleted_eq, h, Bool.xor_self]

end Sys2Proof.Machine

namespace Sys2Proof.Proofs

open Sys2Proof.Machine

/-- Settles O52: a pass of either loop that does not fit is refused, and the first pass of a read begins at the start of the
buffer. -/
theorem execBufferOverflowIsRefused : Obligations.ExecBufferOverflowIsRefused := by
  refine ⟨?_, fun _ _ passes _ _ _ hf hs hov => State.readLoop_overflow hf hs hov passes, ?_⟩
  · intro mf sk a s tr hready htrack hlong
    have hloop := (s.withOperands { s.flags with mf := mf, sk := sk } (stdParameters a)).diagnosticLoop_overflow hlong
    simp only [exec, execReadDiagnostic, State.readPreamble_of_track (p := stdParameters a) hready htrack, hloop]
  · intro w mt mf sk a s tr pre post x hready htrack hsectors hpre hx hsk hlong
    rw [exec_readCommand, State.completeRead_of_track (p := stdParameters a) hready htrack]
    obtain ⟨-, -, -, -, hr, -⟩ := (stdParameters a).computeSizes_fields
    have hfind : findSector tr.sectors (stdParameters a).computeSizes.r = some (pre.length, x) := by
      rw [hr, hsectors]
      exact findSector_append hpre hx
    have hwanted : (sk && x.mismatch w) = false := by
      cases sk with
      | false => rfl
      | true => exact Sector.mismatch_eq_false (hsk rfl)
    exact State.readLoop_overflow hfind hwanted (hlong.trans_le (Nat.le_add_left _ _)) 255

end Sys2Proof.Proofs
end

section
/-! PROOFS. The decoder and the encoder (30_encoding.md R47, R50, R58): each undoes the other. -/

namespace Sys2Proof

open Sys2Proof.Laws

/-! ## Decoding -/

/-- A command byte with its entry's parameter bytes behind it decodes (R47, R58). -/
theorem decode_cons {b : Byte} {ps : List Byte} (h : (descriptor (selectIndex b)).paramCount ≤ ps.length) :
    decode (b :: ps) =
      .ok (instrOf (selectIndex b) (mtOf b) (mfOf b) (skOf b) (opcodeOf b) (ps.take (descriptor (selectIndex b)).paramCount),
        ps.drop (descriptor (selectIndex b)).paramCount) :=
  if_neg (Nat.not_lt.2 h)

/-- A command byte with fewer bytes behind it than its entry's parameters does not decode (R47). -/
theorem decode_cons_truncated {b : Byte} {ps : List Byte} (h : ps.length < (descriptor (selectIndex b)).paramCount) :
    decode (b :: ps) = .error (.truncated (selectIndex b) (descriptor (selectIndex b)).paramCount ps.length) :=
  if_pos h

/-- What decodes is a command byte with its entry's parameter bytes behind it (R47). -/
theorem exists_of_decode_eq_ok {bs rest : List Byte} {i : Instr} (h : decode bs = .ok (i, rest)) :
    ∃ b ps, bs = b :: ps ∧ (descriptor (selectIndex b)).paramCount ≤ ps.length ∧
      i = instrOf (selectIndex b) (mtOf b) (mfOf b) (skOf b) (opcodeOf b) (ps.take (descriptor (selectIndex b)).paramCount) ∧
      rest = ps.drop (descriptor (selectIndex b)).paramCount := by
  cases bs with
  | nil => cases h
  | cons b ps =>
    by_cases hlen : (descriptor (selectIndex b)).paramCount ≤ ps.length
    · rw [decode_cons hlen] at h
      obtain ⟨rfl, rfl⟩ := Prod.mk.inj (Except.ok.inj h)
      exact ⟨b, ps, rfl, hlen, rfl, rfl⟩
    · rw [decode_cons_truncated (Nat.lt_of_not_le hlen)] at h
      cases h

/-! ## The command byte of a decoded command -/

/-- An entry's command byte carries the flags the entry leaves free and its own opcode, INVALID's the byte's (R48, R51). -/
theorem instrOf_head (i : Fin 16) (mt mf sk : Bool) (op : BitVec 5) (q : List Byte) :
    (instrOf i mt mf sk op q).head =
      commandByte (mt && (descriptor i).allowMT) (mf && (descriptor i).allowMF) (sk && (descriptor i).allowSK)
        (if i = 15 then op else opcodeAt i) := by
  fin_cases i <;> simp [instrOf, Instr.head, descriptor, commandTable, commandRow, invalidRow]

/-- No flag outside the ones an entry allows (R50). -/
theorem illegalFlags_eq_false {e : CommandDescriptor} {b : Byte} :
    illegalFlags e b = false ↔ (mtOf b && !e.allowMT) = false ∧ (mfOf b && !e.allowMF) = false ∧ (skOf b && !e.allowSK) = false := by
  rw [illegalFlags, Bool.or_eq_false_iff, Bool.or_eq_false_iff, and_assoc]

/-- The command a byte selects has that byte as its command byte (R48, R50). -/
theorem instrOf_selectIndex_head (b : Byte) (q : List Byte) :
    (instrOf (selectIndex b) (mtOf b) (mfOf b) (skOf b) (opcodeOf b) q).head = b := by
  obtain ⟨hmt, hmf, hsk⟩ := illegalFlags_eq_false.1 (illegalFlags_selectIndex b)
  have kept : ∀ f allowed : Bool, (f && !allowed) = false → (f && allowed) = f := by decide
  have hop : (if selectIndex b = 15 then opcodeOf b else opcodeAt (selectIndex b)) = opcodeOf b := by
    split
    · rfl
    · exact opcodeAt_selectIndex b ‹_›
  rw [instrOf_head, kept _ _ hmt, kept _ _ hmf, kept _ _ hsk, hop, commandByte_fields]

/-- A command is well-formed when its command byte selects its own entry (R50, R58). -/
theorem wf_of_selectIndex_head {i : Instr} (h : selectIndex i.head = i.index) : i.wf = true := by
  cases i with
  | invalid mt mf sk op => exact beq_iff_eq.2 h
  | _ => rfl

/-- The command a byte selects is well-formed (R58). -/
theorem instrOf_selectIndex_wf (b : Byte) (q : List Byte) :
    (instrOf (selectIndex b) (mtOf b) (mfOf b) (skOf b) (opcodeOf b) q).wf = true :=
  wf_of_selectIndex_head (by rw [instrOf_selectIndex_head, instrOf_index])

end Sys2Proof

namespace Sys2Proof.Proofs

open Sys2Proof.Laws

/-- Settles O2: the command byte of a well-formed command selects its entry, whose bytes give the command's own fields back. -/
theorem decodeOfEncodeGivesTheCommand : Obligations.DecodeOfEncodeGivesTheCommand := by
  intro i rest hwf
  obtain ⟨hselect, hcount⟩ := EncodeShape.all i hwf
  have hlen : (descriptor (selectIndex i.head)).paramCount = i.params.length := by rw [hselect, hcount]
  calc decode (encode i ++ rest)
      = decode (i.head :: (i.params ++ rest)) := rfl
    _ = .ok (instrOf (selectIndex i.head) (mtOf i.head) (mfOf i.head) (skOf i.head) (opcodeOf i.head) i.params, rest) := by
      rw [decode_cons (by rw [hlen, List.length_append]; exact Nat.le_add_right _ _), hlen, List.take_left, List.drop_left]
    _ = .ok (i, rest) := by rw [hselect, instrOf_fields]

/-- Settles O3: the selected command keeps its command byte and the parameter bytes it was read from. -/
theorem encodeOfDecodeGivesTheBytes : Obligations.EncodeOfDecodeGivesTheBytes := by
  intro bs rest i h
  obtain ⟨b, ps, rfl, hlen, rfl, rfl⟩ := exists_of_decode_eq_ok h
  refine ⟨?_, instrOf_selectIndex_wf b _⟩
  rw [encode, instrOf_selectIndex_head, instrOf_params _ _ _ _ _ _ (List.length_take_of_le hlen), List.cons_append,
    List.take_append_drop]

/-- Settles O4: the lookup is total. -/
theorem everyCommandByteDecodes : Obligations.EveryCommandByteDecodes :=
  fun b _ hlen => ⟨_, decode_cons hlen, instrOf_index .., instrOf_selectIndex_wf b _⟩

/-- Settles O1, by running the decoder on each of the seven lists. -/
theorem specBytesDecodeToTheirCommands : Obligations.SpecBytesDecodeToTheirCommands :=
  ⟨rfl, rfl, rfl, rfl, rfl, rfl, rfl⟩

end Sys2Proof.Proofs
end

section
/-! PROOFS. The lookup (30_encoding.md R50, R51): the entry with the byte's opcode, where it allows the byte's flags; as masks and
matches, a row's fixed bits. -/

namespace Sys2Proof

/-! ## The lookup by opcode and flags -/

/-- No two entries have one opcode, and only Invalid has none (R51). -/
theorem descriptor_opcode_injective {i j : Fin 16} (h : (descriptor i).opcode = (descriptor j).opcode) : i = j := by
  revert i j; decide

/-- The entries the lookup searches are those with an opcode (R51). -/
theorem mem_opcodeIndices {i : Fin 16} : i ∈ opcodeIndices ↔ i ≠ 15 := by
  revert i; decide

theorem descriptor_opcode_eq_some {i : Fin 16} {op : BitVec 5} (h : i ≠ 15) : (descriptor i).opcode = some op ↔ op = opcodeAt i := by
  have hsome : ∀ i : Fin 16, i ≠ 15 → (descriptor i).opcode = some (opcodeAt i) := by decide
  rw [hsome i h, Option.some.injEq, eq_comm]

/-- The lookup of a byte whose opcode no entry has (R50). -/
theorem selectIndex_of_no_opcode {b : Byte} (h : ∀ i, (descriptor i).opcode ≠ some (opcodeOf b)) : selectIndex b = 15 := by
  have hfind : opcodeIndices.find? (fun i => (descriptor i).opcode == some (opcodeOf b)) = none :=
    List.find?_eq_none.2 fun i _ => by simpa using h i
  rw [selectIndex, hfind]
  rfl

/-- The lookup of a byte with an entry's opcode (R50). -/
theorem selectIndex_of_opcode {b : Byte} {i : Fin 16} (h : (descriptor i).opcode = some (opcodeOf b)) :
    selectIndex b = if illegalFlags (descriptor i) b then 15 else i := by
  have hmem : i ∈ opcodeIndices := mem_opcodeIndices.2 fun hi => by subst hi; cases h
  unfold selectIndex
  split
  · rename_i j hfind
    obtain rfl : j = i := descriptor_opcode_injective (.trans (by simpa using List.find?_some hfind) h.symm)
    rfl
  · rename_i hfind
    exact absurd h (by simpa using List.find?_eq_none.1 hfind i hmem)

/-- A byte selects an entry other than Invalid iff it has its opcode and no flag the entry does not allow (R50). -/
theorem selectIndex_eq_iff {b : Byte} {i : Fin 16} (hi : i ≠ 15) :
    selectIndex b = i ↔ opcodeOf b = opcodeAt i ∧ illegalFlags (descriptor i) b = false := by
  constructor
  · rintro rfl
    exact ⟨(opcodeAt_selectIndex b hi).symm, illegalFlags_selectIndex b⟩
  · rintro ⟨hop, hflags⟩
    rw [selectIndex_of_opcode ((descriptor_opcode_eq_some hi).2 hop), hflags]
    rfl

/-! ## Masks and matches -/

/-- The bits of the command byte an entry fixes: the opcode and the flags it does not allow (R51). -/
def rowMask (i : Fin 16) : Byte :=
  commandByte (!(descriptor i).allowMT) (!(descriptor i).allowMF) (!(descriptor i).allowSK) 0x1F

/-- The value of the fixed bits: the entry's opcode, and no flag (R51). -/
def rowMatch (i : Fin 16) : Byte := commandByte false false false (opcodeAt i)

theorem commandByte_and (mt mf sk mt' mf' sk' : Bool) (op op' : BitVec 5) :
    commandByte mt mf sk op &&& commandByte mt' mf' sk' op' = commandByte (mt && mt') (mf && mf') (sk && sk') (op &&& op') :=
  BitVec.and_append.trans (by rw [BitVec.and_append, BitVec.and_append, BitVec.ofBool_and_ofBool, BitVec.ofBool_and_ofBool,
    BitVec.ofBool_and_ofBool, commandByte])

theorem commandByte_inj {mt mf sk mt' mf' sk' : Bool} {op op' : BitVec 5} :
    commandByte mt mf sk op = commandByte mt' mf' sk' op' ↔ mt = mt' ∧ mf = mf' ∧ sk = sk' ∧ op = op' := by
  constructor
  · intro h
    exact ⟨by simpa using congrArg mtOf h, by simpa using congrArg mfOf h, by simpa using congrArg skOf h,
      by simpa using congrArg opcodeOf h⟩
  · rintro ⟨rfl, rfl, rfl, rfl⟩
    rfl

/-- A byte selects an entry other than Invalid iff it agrees with the entry's match under its mask (R51). -/
theorem selectIndex_eq_iff_rowMask {b : Byte} {i : Fin 16} (hi : i ≠ 15) : selectIndex b = i ↔ b &&& rowMask i = rowMatch i := by
  have hop : opcodeOf b &&& 0x1F = opcodeOf b := BitVec.and_allOnes
  have hand : b &&& rowMask i = commandByte (mtOf b && !(descriptor i).allowMT) (mfOf b && !(descriptor i).allowMF)
      (skOf b && !(descriptor i).allowSK) (opcodeOf b) := by
    rw [← hop, ← commandByte_and, commandByte_fields, rowMask]
  rw [selectIndex_eq_iff hi, illegalFlags_eq_false, hand, rowMatch, commandByte_inj, and_comm, and_assoc, and_assoc]

end Sys2Proof

namespace Sys2Proof.Proofs

/-- Settles O5: no two entries share an opcode, so the lookup's search finds the entry or none. -/
theorem lookupByOpcodeAndFlags : Obligations.LookupByOpcodeAndFlags := by
  intro b
  refine ⟨selectIndex_of_no_opcode, fun i hop => ?_⟩
  have hflags : ((b.getLsbD 7 = true ∧ (descriptor i).allowMT = false) ∨ (b.getLsbD 6 = true ∧ (descriptor i).allowMF = false) ∨
      (b.getLsbD 5 = true ∧ (descriptor i).allowSK = false)) ↔ illegalFlags (descriptor i) b = true := by
    simp [illegalFlags, mtOf, mfOf, skOf, or_assoc]
  rw [hflags, selectIndex_of_opcode hop]
  exact ⟨fun h => if_pos h, fun h => if_neg h⟩

/-- Settles O6: the listed masks and matches are those of the Command Table's rows, and a byte that matches no row can select
none but INVALID. -/
theorem commandTableMasksAndCounts : Obligations.CommandTableMasksAndCounts := by
  refine ⟨fun b rows hrows => ?_, by decide⟩
  have htable : rows = opcodeIndices.map fun i => (i, rowMask i, rowMatch i) := hrows.trans (by decide)
  rw [htable, List.forall_mem_map, List.forall_mem_map]
  constructor
  · exact fun i hi => selectIndex_eq_iff_rowMask (mem_opcodeIndices.1 hi)
  · intro hnone
    by_contra hselect
    exact hnone _ (mem_opcodeIndices.2 hselect) ((selectIndex_eq_iff_rowMask hselect).1 rfl)

end Sys2Proof.Proofs
end

section
/-! PROOFS. A command's whole dialogue (40_phase_machine_and_dispatch.md R65 to R73): its bytes written one after the other. -/

namespace Sys2Proof.Machine

open Sys2Proof.Laws

/-! ## What the accepted bytes are read as -/

/-- The command whose bytes have been accepted is the one fetched (R72). -/
theorem State.fetched_acceptBytes {i : Instr} {op : BitVec 5} (hwf : i.wf = true) (s : State)
    (hop : i.index ≠ 15 ∨ op = opcodeOf i.head) : (s.acceptBytes (encode i)).fetched op = i := by
  obtain ⟨hselect, hcount⟩ := EncodeShape.all i hwf
  let u := s.acceptCommandByte i.head
  have hframe := AcceptFrame.acceptParams i.params u
  have hindex : (u.acceptParams i.params).cmdIndex = i.index := hframe.cmdIndex.trans hselect
  have hflags : (u.acceptParams i.params).flags = ⟨mtOf i.head, mfOf i.head, skOf i.head⟩ := hframe.flags
  have hcounter : (u.acceptParams i.params).comm.counter = i.params.length :=
    (State.acceptParams_counter i.params u).trans (Nat.zero_add _)
  have hroom : u.comm.counter + i.params.length ≤ 9 := by
    have hle := paramCount_le_eight i.index
    have hzero : u.comm.counter = 0 := rfl
    omega
  have haccepted : (u.acceptParams i.params).accepted = i.params := State.accepted_acceptParams i.params u hroom
  change (u.acceptParams i.params).fetched op = i
  rw [State.fetched_eq _ op (opcodeOf i.head) (by rw [hcounter, hcount, hindex]) (by rwa [hindex]), hindex, hflags, haccepted,
    instrOf_fields]

/-- Completing the fetched command is the meaning of the command (R72). -/
theorem exec_fetched_acceptBytes {i : Instr} {op : BitVec 5} (hwf : i.wf = true) (s : State)
    (hop : i.index ≠ 15 ∨ op = opcodeOf i.head) :
    exec ((s.acceptBytes (encode i)).fetched op) (s.acceptBytes (encode i)) = exec i (s.acceptBytes (encode i)) := by
  rw [State.fetched_acceptBytes hwf s hop]

/-! ## The steps of the dialogue -/

theorem busWriteData_idle {s : State} (b : Byte) (hph : s.phase = .idle) : busWriteData b s = writeIdle b s := by
  simp only [busWriteData, hph]

theorem busWriteData_command {s : State} (b : Byte) (hph : s.phase = .command) : busWriteData b s = writeCommand b s := by
  simp only [busWriteData, hph]

/-- The write of a parameter byte of a command that is no stub: the byte is accepted, and the last one completes the command
(R65, R72). -/
theorem step_dataWrite_command {s : State} {b : Byte} {calls : List BusEvent} (hph : s.phase = .command)
    (hkind : (descriptor s.cmdIndex).kind ≠ .stub) (hroom : s.comm.counter < (descriptor s.cmdIndex).paramCount)
    (hin : s.inbox = .write .data b :: calls) :
    step s =
      if s.comm.counter + 1 = (descriptor s.cmdIndex).paramCount then
        exec ((({ s with inbox := calls } : State).acceptParam b).fetched (opcodeAt s.cmdIndex))
          (({ s with inbox := calls } : State).acceptParam b)
      else .next (({ s with inbox := calls } : State).acceptParam b) := by
  have hroom9 : s.comm.counter < 9 := by
    have hle := paramCount_le_eight s.cmdIndex
    omega
  calc step s
      = busWriteData b { s with inbox := calls } := step_cons hin
    _ = writeCommand b { s with inbox := calls } := busWriteData_command (s := { s with inbox := calls }) b hph
    _ = _ := writeCommand_eq (s := { s with inbox := calls }) b hkind hroom9

/-- The writes of the parameter bytes still missing complete the command in the state that has accepted them (R65, R72). -/
theorem run_dataWrites_command {s : State} {b : Byte} {ps : List Byte} {rest : List BusEvent} (hph : s.phase = .command)
    (hkind : (descriptor s.cmdIndex).kind ≠ .stub)
    (hcount : s.comm.counter + (ps.length + 1) = (descriptor s.cmdIndex).paramCount)
    (hin : s.inbox = dataWrites (b :: ps) ++ rest) :
    run (ps.length + 1) s =
      exec ((({ s with inbox := rest } : State).acceptParams (b :: ps)).fetched (opcodeAt s.cmdIndex))
        (({ s with inbox := rest } : State).acceptParams (b :: ps)) := by
  induction ps generalizing s b with
  | nil => exact (run_one s).trans ((step_dataWrite_command hph hkind (by omega) hin).trans (if_pos hcount))
  | cons c ps ih =>
    rw [List.length_cons] at hcount
    let u := s.acceptParam b
    have haccept (calls : List BusEvent) : ({ s with inbox := calls } : State).acceptParam b = { u with inbox := calls } :=
      State.acceptParam_withInbox s calls b
    have hstep : step s = .next { u with inbox := dataWrites (c :: ps) ++ rest } := by
      rw [step_dataWrite_command hph hkind (by omega) hin, if_neg (by omega)]
      exact congrArg Host.Outcome.next (haccept _)
    have hindex : u.cmdIndex = s.cmdIndex := State.acceptParam_cmdIndex s b
    have hcounter : u.comm.counter = s.comm.counter + 1 := by rw [State.acceptParam_comm]
    have hrun := ih (s := { u with inbox := dataWrites (c :: ps) ++ rest }) ((State.acceptParam_phase s b).trans hph)
      (hindex.symm ▸ hkind) (by simp only [hindex, hcounter]; omega) rfl
    have hall : ({ s with inbox := rest } : State).acceptParams (b :: c :: ps) =
        ({ u with inbox := rest } : State).acceptParams (c :: ps) := congrArg (State.acceptParams (c :: ps)) (haccept rest)
    rw [hall, ← hindex]
    exact (run_succ_of_next hstep).trans hrun

end Sys2Proof.Machine

namespace Sys2Proof.Proofs

open Sys2Proof.Machine Sys2Proof.Laws

/-- Settles O20: the command byte begins the command, or completes it where the entry has no parameters; the writes of the
parameter bytes then complete it; and what is completed is the command itself. -/
theorem wholeCommandRunsToItsMeaning : Obligations.WholeCommandRunsToItsMeaning := by
  intro i s rest hwf hkind hidle hin
  obtain ⟨hselect, hcount⟩ := EncodeShape.all i hwf
  have hstep : step s = writeIdle i.head { s with inbox := dataWrites i.params ++ rest } :=
    (step_cons hin).trans (busWriteData_idle (s := { s with inbox := dataWrites i.params ++ rest }) i.head hidle)
  rw [writeIdle_eq, hselect] at hstep
  cases hparams : i.params with
  | nil =>
    have hencode : encode i = [i.head] := by rw [encode, hparams]
    have hzero : (descriptor i.index).paramCount = 0 := by rw [← hcount, hparams, List.length_nil]
    rw [if_pos (.inr hzero), hparams] at hstep
    rw [← exec_fetched_acceptBytes hwf _ (.inr rfl), hencode]
    exact (run_one s).trans hstep
  | cons b ps =>
    have hencode : encode i = i.head :: b :: ps := by rw [encode, hparams]
    have hpos : (descriptor i.index).paramCount = ps.length + 1 := by rw [← hcount, hparams, List.length_cons]
    have hindex : i.index ≠ 15 := fun h => absurd (((paramCount_eq_zero _).2 (.inr h)).symm.trans hpos) (by simp)
    rw [if_neg (by simp [hkind, hpos]), hparams] at hstep
    have hrun := run_dataWrites_command (s := ({ s with inbox := dataWrites (b :: ps) ++ rest } : State).acceptCommandByte i.head)
      (rest := rest) rfl (by simpa only [State.acceptCommandByte_cmdIndex, hselect] using hkind)
      (by simp [hselect, hpos]) rfl
    rw [← exec_fetched_acceptBytes (op := opcodeAt (selectIndex i.head)) hwf _ (.inl hindex), hencode]
    exact (run_succ_of_next hstep).trans hrun

end Sys2Proof.Proofs
end

section
/-! PROOFS. What accepting a command's bytes leaves (40_phase_machine_and_dispatch.md R65 to R71): one byte of a layout that is
not SPECIFY's, said once in full, and any number of bytes. -/

namespace Sys2Proof.Machine

/-! ## One byte -/

/-- `DriveIndex` after byte `k` of a command of layout `l`: byte 0 of the layouts with a Head/UnitSelect byte sets it (R68, R70,
R71). -/
def storeUnit (l : ParamLayout) (k : Nat) (b : Byte) (d : BitVec 2) : BitVec 2 :=
  match l with
  | .specify => d
  | .empty => d
  | _ => if k = 0 then (HeadUnit.ofByte b).us else d

/-- The parser of any layout but SPECIFY's writes `P` and `DriveIndex` only (R68, R70, R71). -/
theorem State.parseParamByte_eq {s : State} (k : Nat) (b : Byte) (h : s.active.layout ≠ .specify) :
    s.parseParamByte k b =
      { s with p := storeParameter s.active.layout k b s.p, driveIndex := storeUnit s.active.layout k b s.driveIndex } := by
  simp only [State.active] at h ⊢
  unfold State.parseParamByte
  generalize (descriptor s.cmdIndex).layout = l at h ⊢
  cases l
  case standard => cases k <;> rfl
  case scan => cases k <;> rfl
  case headUnit => cases k <;> rfl
  case seek => rcases k with - | - | k <;> rfl
  case specify => exact absurd rfl h
  case empty => rfl

/-- A parameter byte of any layout but SPECIFY's is latched, stored, counted and parsed, and no other field changes (R65). -/
theorem State.acceptParam_eq {s : State} (b : Byte) (h : s.active.layout ≠ .specify) :
    s.acceptParam b =
      { s with lastReceived := b, comm := ⟨s.comm.bytes.setIfInBounds s.comm.counter b, s.comm.counter + 1⟩,
               p := storeParameter s.active.layout s.comm.counter b s.p,
               driveIndex := storeUnit s.active.layout s.comm.counter b s.driveIndex } := by
  simp only [State.acceptParam]
  rw [State.parseParamByte_eq _ _ (by exact h)]
  rfl

theorem State.acceptParam_driveIndex (s : State) (b : Byte) :
    (s.acceptParam b).driveIndex = storeUnit s.active.layout s.comm.counter b s.driveIndex := by
  by_cases h : s.active.layout = .specify
  · rw [h]
    simp only [State.active] at h
    simp only [State.acceptParam, State.parseParamByte, h, State.parseSpecify_driveIndex, storeUnit]
  · rw [State.acceptParam_eq b h]

/-- The standard parser's later positions do not hold the unit (R53, R68). -/
theorem CommandParameters.setStandard_us (p : CommandParameters) (k : Nat) (b : Byte) (scan : Bool) :
    (p.setStandard k b scan).us = p.us := by
  unfold CommandParameters.setStandard
  split
  case h_7 => split <;> rfl
  all_goals rfl

/-- The byte that sets `DriveIndex` stores the same unit into `P`, and no other byte changes either. -/
theorem storeUnit_eq_us {l : ParamLayout} {k : Nat} {d : BitVec 2} {p : CommandParameters} (b : Byte)
    (hl : ¬(l = .specify ∨ l = .empty)) (h : k = 0 ∨ d = p.us) : storeUnit l k b d = (storeParameter l k b p).us := by
  by_cases hk : k = 0
  · subst hk
    cases l
    case specify => exact absurd (.inl rfl) hl
    case empty => exact absurd (.inr rfl) hl
    all_goals rfl
  · obtain rfl := h.resolve_left hk
    cases l <;> simp only [storeUnit, storeParameter, if_neg hk, CommandParameters.setStandard_us]
    case seek => split <;> rfl

/-! ## Any number of bytes -/

/-- What every parameter byte of the active command keeps, any number of them keeps. -/
theorem State.acceptParams_keeps {P : State → Prop} {s : State} (ps : List Byte) (h : P s)
    (hstep : ∀ (u : State) (b : Byte), u.cmdIndex = s.cmdIndex → P u → P (u.acceptParam b)) : P (s.acceptParams ps) := by
  induction ps generalizing s with
  | nil => exact h
  | cons b ps ih =>
    have hindex : (s.acceptParam b).cmdIndex = s.cmdIndex := State.acceptParam_cmdIndex s b
    exact ih (hstep s b rfl h) fun u c hu => hstep u c (hu.trans hindex)

/-- Only SPECIFY's bytes write the Specify fields and the countdown counters (R92). -/
theorem State.acceptParams_times {s : State} (ps : List Byte) (h : s.active.layout ≠ .specify) :
    (s.acceptParams ps).times = s.times ∧ (s.acceptParams ps).counters = s.counters := by
  refine State.acceptParams_keeps (P := fun u => u.times = s.times ∧ u.counters = s.counters) ps ⟨rfl, rfl⟩ ?_
  intro u b hu htimes
  rw [State.acceptParam_eq b (by rwa [State.active, hu])]
  exact htimes

/-- A layout that names no unit leaves `DriveIndex` as it was. -/
theorem State.acceptParams_driveIndex {s : State} (ps : List Byte)
    (h : s.active.layout = .specify ∨ s.active.layout = .empty) : (s.acceptParams ps).driveIndex = s.driveIndex := by
  refine State.acceptParams_keeps (P := fun u => u.driveIndex = s.driveIndex) ps rfl fun u b hu hunit => ?_
  rw [State.acceptParam_driveIndex, State.active, hu, ← State.active, ← hunit]
  obtain h | h := h <;> rw [h] <;> rfl

/-- The first byte of a layout that names the unit sets it, and no later byte changes it (R68, R70, R71). -/
theorem State.acceptParams_unit {s : State} {ps : List Byte} (hps : ps ≠ [])
    (h : ¬(s.active.layout = .specify ∨ s.active.layout = .empty)) (hfirst : s.comm.counter = 0) :
    (s.acceptParams ps).driveIndex = (s.acceptParams ps).p.us := by
  have hstep (u : State) (b : Byte) (hu : u.cmdIndex = s.cmdIndex) (hunit : u.comm.counter = 0 ∨ u.driveIndex = u.p.us) :
      (u.acceptParam b).driveIndex = (u.acceptParam b).p.us := by
    rw [State.acceptParam_driveIndex, State.acceptParam_p]
    exact storeUnit_eq_us b (by rwa [State.active, hu]) hunit
  obtain ⟨b, ps, rfl⟩ := List.exists_cons_of_ne_nil hps
  exact State.acceptParams_keeps (P := fun u => u.driveIndex = u.p.us) (s := s.acceptParam b) ps (hstep s b rfl (.inl hfirst))
    fun u c hu hunit => hstep u c (hu.trans (State.acceptParam_cmdIndex s b)) (.inr hunit)

/-- The bytes accepted are what `P` is parsed from (R67 to R71). -/
theorem State.acceptParams_parsed (ps : List Byte) {s : State} (hroom : s.comm.counter + ps.length ≤ 8)
    (h : s.p = parsedParameters s.active.layout s.accepted) :
    (s.acceptParams ps).p = parsedParameters (s.acceptParams ps).active.layout (s.acceptParams ps).accepted := by
  induction ps generalizing s with
  | nil => exact h
  | cons b ps ih =>
    rw [List.length_cons] at hroom
    exact ih (s := s.acceptParam b) (by simp only [State.acceptParam_comm]; omega) (State.acceptParam_parsed b (by omega) h)

/-- The parameter buffer behind the accepted bytes stays as it was. -/
theorem State.acceptParams_bytes (ps : List Byte) {s : State} {k : Nat} (h : s.comm.counter + ps.length ≤ k) :
    (s.acceptParams ps).comm.bytes[k]? = s.comm.bytes[k]? := by
  induction ps generalizing s with
  | nil => rfl
  | cons b ps ih =>
    rw [List.length_cons] at h
    have hbyte : (s.acceptParam b).comm.bytes[k]? = s.comm.bytes[k]? := by
      rw [State.acceptParam_comm]
      exact Vector.getElem?_setIfInBounds_ne (by omega)
    exact (ih (s := s.acceptParam b) (by simp only [State.acceptParam_comm]; omega)).trans hbyte

/-- The last byte accepted is the one latched (R65). -/
theorem State.acceptParams_lastReceived (ps : List Byte) (s : State) :
    (s.acceptParams ps).lastReceived = ps.getLast?.getD s.lastReceived := by
  induction ps generalizing s with
  | nil => rfl
  | cons b ps ih =>
    refine (ih (s.acceptParam b)).trans ?_
    rw [State.acceptParam_lastReceived, List.getLast?_cons, Option.getD_some]

/-- A layout without parameter bytes is the empty one. -/
theorem layout_eq_empty {j : Fin 16} (h : (descriptor j).paramCount = 0) : (descriptor j).layout = .empty := by
  revert j; decide

end Sys2Proof.Machine

namespace Sys2Proof.Proofs

open Sys2Proof.Machine Sys2Proof.Laws

/-- Settles O21: the command byte begins the command, and each parameter byte writes no more than its parser says. -/
theorem acceptedBytesAreTheOperands : Obligations.AcceptedBytesAreTheOperands := by
  intro i s hwf
  obtain ⟨hselect, hcount⟩ := EncodeShape.all i hwf
  let u := s.acceptCommandByte i.head
  have hactive : u.active = descriptor i.index := congrArg descriptor hselect
  have hframe := AcceptFrame.acceptParams i.params u
  have hindex : (u.acceptParams i.params).cmdIndex = i.index := hframe.cmdIndex.trans hselect
  have hzero : u.comm.counter = 0 := rfl
  have hroom : u.comm.counter + i.params.length ≤ 8 := by
    rw [hzero, Nat.zero_add, hcount]
    exact paramCount_le_eight i.index
  have haccepted : (u.acceptParams i.params).accepted = i.params :=
    State.accepted_acceptParams i.params u (Nat.le_succ_of_le hroom)
  have hparsed := State.acceptParams_parsed i.params hroom (parsedParameters_nil u.active.layout).symm
  rw [haccepted, State.active, hindex] at hparsed
  have hres : u.res = { s.res with counter := 0, length := (descriptor i.index).resultCount } := by
    rw [← hselect]
    rfl
  refine ⟨u.acceptParams i.params, rfl, hframe.phase, hindex, hframe.flags, ?_, haccepted, ?_, hparsed, hframe.res.trans hres,
    hframe.xbuf, hframe.bank, hframe.seek, hframe.drives, hframe.policy, hframe.inbox, hframe.lastToSend, hframe.dout,
    ?_, ?_, ?_, ?_⟩
  · rw [State.acceptParams_counter, hzero, Nat.zero_add, hcount]
  · exact fun k hk => State.acceptParams_bytes i.params (by rwa [hzero, Nat.zero_add])
  · rw [State.acceptParams_lastReceived, encode, List.getLast?_cons]
    rfl
  · exact fun hlayout => State.acceptParams_times i.params (by rwa [hactive])
  · exact fun hlayout => State.acceptParams_driveIndex i.params (by rwa [hactive])
  · intro hlayout
    have hparams : i.params ≠ [] := fun hnil => hlayout (.inr (layout_eq_empty (by rw [← hcount, hnil, List.length_nil])))
    exact State.acceptParams_unit hparams (by rwa [hactive]) hzero

end Sys2Proof.Proofs
end

section
/-! PROOFS. The command byte (40_phase_machine_and_dispatch.md R65 to R67, R73, R94): it begins its command, or runs a stub's
routine or a parameterless command at once. -/

namespace Sys2Proof.Machine

/-- The write of a command byte (R65). -/
theorem step_dataWrite_idle {s : State} {b : Byte} {rest : List BusEvent} (hin : s.inbox = .write .data b :: rest)
    (hph : s.phase = .idle) : step s = writeIdle b { s with inbox := rest } :=
  (step_cons hin).trans (busWriteData_idle (s := { s with inbox := rest }) b hph)

/-- A stub's command byte runs its routine (R94). -/
theorem writeIdle_stub {b : Byte} (h : (descriptor (selectIndex b)).kind = .stub) (s : State) :
    writeIdle b s = (s.acceptCommandByte b).stubRoutine := by
  rw [writeIdle_eq, if_pos (.inl h), exec_stub (by simpa using h)]

/-- The command byte of a command with parameters begins the command; a stub's does where its routine is empty (R65, R101). -/
theorem writeIdle_begins {b : Byte} {s : State} (hkind : (descriptor (selectIndex b)).kind ≠ .stub ∨ s.policy = .wedge)
    (hparams : 1 ≤ (descriptor (selectIndex b)).paramCount) : writeIdle b s = .next (s.acceptCommandByte b) := by
  by_cases hstub : (descriptor (selectIndex b)).kind = .stub
  · have hpolicy : (s.acceptCommandByte b).policy = .wedge := hkind.resolve_left (not_not.2 hstub)
    rw [writeIdle_stub hstub, State.stubRoutine, hpolicy]
  · rw [writeIdle_eq, if_neg (not_or.2 ⟨hstub, by omega⟩)]

/-- The command byte of a parameterless command runs the command of its entry, which has no parameter bytes to read (R73). -/
theorem writeIdle_parameterless {b : Byte} (h : (descriptor (selectIndex b)).paramCount = 0) (s : State) :
    writeIdle b s = exec (instrOf (selectIndex b) (mtOf b) (mfOf b) (skOf b) (opcodeOf b) []) (s.acceptCommandByte b) := by
  rw [writeIdle_eq, if_pos (.inr h), State.fetched_eq _ _ (opcodeOf b) h.symm (.inr rfl)]
  rfl

/-- A command byte that decodes alone selects a parameterless entry (R47). -/
theorem of_decode_singleton {b : Byte} {i : Instr} (h : decode [b] = .ok (i, [])) :
    (descriptor (selectIndex b)).paramCount = 0 ∧ i = instrOf (selectIndex b) (mtOf b) (mfOf b) (skOf b) (opcodeOf b) [] := by
  obtain ⟨c, ps, hbytes, hlen, rfl, -⟩ := exists_of_decode_eq_ok h
  obtain ⟨rfl, rfl⟩ := List.cons.inj hbytes
  exact ⟨Nat.le_zero.1 hlen, by rw [List.take_nil]⟩

end Sys2Proof.Machine

namespace Sys2Proof.Proofs

open Sys2Proof.Machine

/-- Settles O10: the command byte begins its command, and a stub's routine adds nothing to that under `wedge`. -/
theorem commandByteBeginsTheCommand : Obligations.CommandByteBeginsTheCommand := by
  intro s b rest hin hph hkind hparams
  exact (step_dataWrite_idle hin hph).trans (writeIdle_begins hkind hparams)

/-- Settles O19: the routine is the same for every stub and reads no parameter byte. -/
theorem stubRunsAtItsCommandByte : Obligations.StubRunsAtItsCommandByte := by
  intro s b ps rest i hin hph hdecode hstub
  have hselect : (descriptor (selectIndex b)).kind = .stub := by
    obtain ⟨c, qs, hbytes, -, rfl, -⟩ := exists_of_decode_eq_ok hdecode
    obtain ⟨rfl, -⟩ := List.cons.inj hbytes
    rwa [instrOf_index] at hstub
  rw [step_dataWrite_idle hin hph, writeIdle_stub hselect, exec_stub hstub]

end Sys2Proof.Proofs
end

section
/-! PROOFS. The phase machine (40_phase_machine_and_dispatch.md R61, R72, R76): the phase a command completes in, and the phase
changes one call can make. -/

namespace Sys2Proof.Machine

/-! ## The phase a command completes in -/

/-- A read command ends with bytes to serve or with its result (R82, R111). -/
theorem ReadEnd.execution_or_result {s t : State} (h : ReadEnd s t) : t.phase = .execution ∨ t.phase = .result := by
  rw [h.phase]
  split
  · exact .inl rfl
  · exact .inr rfl

theorem execReadId_phase {mf : Bool} {hu : HeadUnit} {s t : State} (h : execReadId mf hu s = .next t) : t.phase = .result := by
  obtain ⟨x, rfl⟩ | ⟨d, n, i, x, rfl⟩ := execReadId_next_cases h
  · rfl
  · rfl

/-- SENSE_INTERRUPT_STATUS answers a result in every seek state (R90). -/
theorem execSenseInterruptStatus_next (s : State) : ∃ t, execSenseInterruptStatus s = .next t ∧ t.phase = .result := by
  simp only [execSenseInterruptStatus]
  split <;> exact ⟨_, rfl, rfl⟩

theorem State.stubRoutine_phase {s t : State} (h : s.stubRoutine = .next t) : t.phase = s.phase := by
  rw [(State.stubRoutine_next h).2]

/-- A parameterless command answers a next state, in Result (R73, R90, R93). -/
theorem exec_parameterless {i : Instr} (h : i.index = 13 ∨ i.index = 15) (s : State) :
    ∃ t, exec i s = .next t ∧ t.phase = .result := by
  cases i
  case senseInterruptStatus => exact execSenseInterruptStatus_next s
  case invalid => exact ⟨_, rfl, rfl⟩
  all_goals simp [Instr.index] at h

/-- The command byte of a parameterless command leaves the phase Result, not Command (R73). -/
theorem writeIdle_parameterless_next {b : Byte} (h : (descriptor (selectIndex b)).paramCount = 0) (s : State) :
    ∃ t, writeIdle b s = .next t ∧ t.phase = .result := by
  rw [writeIdle_parameterless h]
  exact exec_parameterless (by rw [instrOf_index]; exact (paramCount_eq_zero _).1 h) _

/-! ## The phase changes of a call -/

/-- From Command every phase can follow (R61). -/
theorem phaseChangeAllowed_command (p : Phase) : phaseChangeAllowed .command p := by
  unfold phaseChangeAllowed
  cases p <;> simp

/-- A command byte leads to Command, or with a parameterless command to Result (R61, R73). -/
theorem writeIdle_phase {s t : State} {b : Byte} (h : writeIdle b s = .next t) : t.phase = .command ∨ t.phase = .result := by
  by_cases hstub : (descriptor (selectIndex b)).kind = .stub
  · rw [writeIdle_stub hstub] at h
    exact .inl (State.stubRoutine_phase h)
  · by_cases hzero : (descriptor (selectIndex b)).paramCount = 0
    · obtain ⟨u, hu, hresult⟩ := writeIdle_parameterless_next hzero s
      exact .inr (Host.Outcome.next.inj (hu.symm.trans h) ▸ hresult)
    · rw [writeIdle_begins (.inl hstub) (Nat.pos_of_ne_zero hzero)] at h
      exact .inl (Host.Outcome.next.inj h ▸ rfl)

theorem busReadData_phase {s t : State} (h : busReadData s = .next t) : phaseChangeAllowed s.phase t.phase := by
  obtain ⟨-, hsame | hlast | hlast⟩ := busReadData_next h
  · exact .inl hsame.symm
  · exact .inr (.inr (.inr (.inl hlast)))
  · exact .inr (.inr (.inr (.inr hlast)))

theorem busWriteData_phase {s t : State} {b : Byte} (h : busWriteData b s = .next t) : phaseChangeAllowed s.phase t.phase := by
  obtain rfl | ⟨hph, -⟩ | ⟨hph, -⟩ := busWriteData_next_cases h
  · exact .inl rfl
  · rw [busWriteData_idle b hph] at h
    exact .inr (.inl ⟨hph, writeIdle_phase h⟩)
  · rw [hph]
    exact phaseChangeAllowed_command _

theorem handle_phase {e : BusEvent} {s t : State} (he : e.isReset = false) (h : handle e s = .next t) :
    phaseChangeAllowed s.phase t.phase := by
  match e, h with
  | .read .msr, h => exact Host.Outcome.next.inj h ▸ .inl rfl
  | .read .data, h => exact busReadData_phase h
  | .write .msr _, h => exact Host.Outcome.next.inj h ▸ .inl rfl
  | .write .data b, h => exact busWriteData_phase h
  | .tick, h => exact Host.Outcome.next.inj h ▸ .inl rfl
  | .reset, _ => exact absurd he (by decide)
  | .setDrive d r, h => exact Host.Outcome.next.inj h ▸ .inl rfl

end Sys2Proof.Machine

namespace Sys2Proof.Proofs

open Sys2Proof.Machine

/-- Settles O25, by the end of each command's completion. -/
theorem completionPhaseByCommand : Obligations.CompletionPhaseByCommand := by
  intro i s t h
  cases i with
  | readData mt mf sk a => exact (State.completeRead_readEnd h).execution_or_result
  | readDeletedData mt mf sk a => exact (State.completeRead_readEnd h).execution_or_result
  | readDiagnostic mf sk a => exact (execReadDiagnostic_readEnd h).execution_or_result
  | readId mf hu => exact execReadId_phase h
  | writeData mt mf a => exact State.stubRoutine_phase h
  | writeId mf a => exact State.stubRoutine_phase h
  | writeDeletedData mt mf a => exact State.stubRoutine_phase h
  | scanEqual mt mf sk a => exact State.stubRoutine_phase h
  | scanLowOrEqual mt mf sk a => exact State.stubRoutine_phase h
  | scanHighOrEqual mt mf sk a => exact State.stubRoutine_phase h
  | specify a =>
    obtain rfl := Host.Outcome.next.inj h
    rfl
  | seek hu ncn =>
    obtain rfl := Host.Outcome.next.inj h
    rfl
  | recalibrate hu =>
    obtain rfl := Host.Outcome.next.inj h
    rfl
  | senseInterruptStatus =>
    obtain ⟨u, hu, hphase⟩ := execSenseInterruptStatus_next s
    exact Host.Outcome.next.inj (hu.symm.trans h) ▸ hphase
  | senseDriveStatus hu =>
    obtain rfl := Host.Outcome.next.inj h
    rfl
  | invalid mt mf sk op =>
    obtain rfl := Host.Outcome.next.inj h
    rfl

/-- Settles O26: a data read moves on only when it takes the last byte, a command byte begins or completes its command, and from
Command every phase can follow. -/
theorem phaseChangesFollowTheTable : Obligations.PhaseChangesFollowTheTable := by
  intro s t e rest hin he hstep
  rw [step_cons hin] at hstep
  exact handle_phase (s := { s with inbox := rest }) he hstep

/-- Settles O18: the two parameterless commands answer in every state. -/
theorem parameterlessCommandCompletesInline : Obligations.ParameterlessCommandCompletesInline := by
  intro s b rest i hin hph hdecode
  obtain ⟨hzero, rfl⟩ := of_decode_singleton hdecode
  obtain ⟨t, hwrite, hresult⟩ := writeIdle_parameterless_next hzero { s with inbox := rest }
  refine ⟨?_, t, (step_dataWrite_idle hin hph).trans hwrite, (writeIdle_parameterless hzero _).symm.trans hwrite, hresult⟩
  rw [instrOf_index]
  exact (paramCount_eq_zero _).1 hzero

end Sys2Proof.Proofs
end

section
/-! PROOFS. The calls that read the controller or count its time (40_phase_machine_and_dispatch.md R63, R64, R75), and the result
drained byte by byte (R76 b). -/

namespace Sys2Proof.Machine

/-! ## The main status register -/

theorem mainStatus_idle (dir : Direction) : mainStatus .idle dir = 0x80 := by
  cases dir <;> rfl

theorem mainStatus_command (dir : Direction) : mainStatus .command dir = 0x90 := by
  cases dir <;> rfl

theorem mainStatus_result (dir : Direction) : mainStatus .result dir = 0xD0 := by
  cases dir <;> rfl

theorem mainStatus_execution (dir : Direction) : mainStatus .execution dir = if dir = .out then 0xF0 else 0xB0 := by
  cases dir <;> rfl

/-! ## Result bytes -/

/-- The state after `k` Result-phase data reads, with the calls still to come (R64, R113). -/
def State.resultBytesRead (s : State) (k : Nat) (rest : List BusEvent) : State :=
  { s with inbox := rest, res := { s.res with counter := s.res.counter + k },
           phase := if s.res.counter + k = s.res.length then .idle else .result,
           lastToSend := if k = 0 then s.lastToSend else s.res.bytes.toList.getD (s.res.counter + k - 1) 0,
           dout := if k = 0 then s.dout else s.res.bytes.toList.getD (s.res.counter + k - 1) 0 }

/-- The step of a data read in Result (R64). -/
theorem step_resultByteRead {s : State} {rest : List BusEvent} (hin : s.inbox = .read .data :: rest) (hph : s.phase = .result)
    (hroom : s.res.counter < 7) : step s = .next (s.resultBytesRead 1 rest) := by
  have hbyte : s.res.bytes.toList.getD s.res.counter 0 = s.res.bytes[s.res.counter] := by
    simp [List.getD_eq_getElem?_getD, hroom]
  simp only [step_cons hin, handle, busReadData, hph, State.readResultByte, hroom, dite_true, State.resultBytesRead,
    Nat.add_sub_cancel, hbyte, one_ne_zero, if_false]

/-- One result byte, and then `k` bytes. -/
theorem State.resultBytesRead_succ (s : State) (k : Nat) (calls rest : List BusEvent) :
    (s.resultBytesRead 1 calls).resultBytesRead k rest = s.resultBytesRead (k + 1) rest := by
  rcases k with - | k
  · rfl
  · simp only [State.resultBytesRead, Nat.add_assoc, Nat.add_comm 1, Nat.add_sub_cancel, Nat.succ_ne_zero, if_false]

/-- `k` data reads, with at least `k` result bytes left: the phase is Idle exactly when none is left (R76 b). -/
theorem run_resultBytesRead {s : State} (rest : List BusEvent) (k : Nat)
    (hph : s.phase = if s.res.counter = s.res.length then .idle else .result) (hsize : s.res.length ≤ 7)
    (hk : s.res.counter + k ≤ s.res.length) (hin : s.inbox = dataReads k ++ rest) :
    run k s = .next (s.resultBytesRead k rest) := by
  induction k generalizing s with
  | zero =>
    obtain rfl : s.inbox = rest := hin
    simp only [State.resultBytesRead, Nat.add_zero, ← hph, if_true]
    rfl
  | succ k ih =>
    have hresult : s.phase = .result := hph.trans (if_neg (by omega))
    have hstep : step s = .next (s.resultBytesRead 1 (dataReads k ++ rest)) := step_resultByteRead hin hresult (by omega)
    have hleft : s.res.counter + 1 + k ≤ s.res.length := by omega
    rw [run_succ_of_next hstep, ih (s := s.resultBytesRead 1 _) rfl hsize hleft rfl, State.resultBytesRead_succ]

/-! ## Reads that are not served -/

/-- The phases in which a data read serves no byte (R64). -/
theorem busReadData_default {s : State}
    (h : s.phase = .idle ∨ s.phase = .command ∨ (s.phase = .execution ∧ s.active.direction = .inn)) :
    busReadData s = .next s.readDefaultByte := by
  obtain hph | hph | ⟨hph, hdir⟩ := h
  · simp only [busReadData, hph]
  · simp only [busReadData, hph]
  · simp only [State.active] at hdir
    simp only [busReadData, hph, hdir]

end Sys2Proof.Machine

namespace Sys2Proof.Proofs

open Sys2Proof.Machine

/-- Settles O27: the reads' closed form, in which the phase is Idle where the cursor is at the result's length. -/
theorem resultDrainEndsOnTheFinalRead : Obligations.ResultDrainEndsOnTheFinalRead := by
  intro s rest k hph hpending hsize hk hin
  refine ⟨s.resultBytesRead k rest, ?_, rfl, rfl, ?_, ?_, ?_⟩
  · exact run_resultBytesRead rest k (hph.trans (if_neg hpending.ne).symm) hsize (by omega) hin
  · have hlast : s.res.counter + k = s.res.length ↔ k = s.res.length - s.res.counter := by omega
    simp [State.resultBytesRead, hlast]
  · have hleft : ¬s.res.counter + k = s.res.length ↔ k < s.res.length - s.res.counter := by omega
    simp [State.resultBytesRead, hleft]
  · intro hpos
    have hroom : s.res.counter + k - 1 < 7 := by omega
    simp [State.resultBytesRead, hpos.ne', List.getD_eq_getElem?_getD, hroom]

/-- Settles O7: the byte is the phase's, computed at the read. -/
theorem mainStatusReadByPhase : Obligations.MainStatusReadByPhase := by
  intro s rest hin
  refine ⟨mainStatus s.phase s.active.direction, step_cons hin, ?_, ?_, ?_, ?_, ?_⟩
  · exact fun hph => hph ▸ mainStatus_idle _
  · exact fun hph => hph ▸ mainStatus_command _
  · exact fun hph hdir => by rw [hph, hdir, mainStatus_execution, if_pos rfl]
  · exact fun hph hdir => by rw [hph, hdir, mainStatus_execution, if_neg (by decide)]
  · exact fun hph => hph ▸ mainStatus_result _

/-- Settles O8, by the step of a data read in each phase. -/
theorem dataReadByPhase : Obligations.DataReadByPhase := by
  intro s rest hin
  refine ⟨step_execByteRead hin, step_resultByteRead hin, fun hph => ?_⟩
  rw [step_cons hin]
  exact busReadData_default (s := { s with inbox := rest }) hph

/-- Settles O12: each counter goes down by one in the natural numbers, where 0 stays 0. -/
theorem tickCountsDown : Obligations.TickCountsDown := by
  intro s rest hin
  refine ⟨({ s with inbox := rest } : State).tick, step_cons hin, rfl, fun f hf => ?_⟩
  have hdown : f ({ s with inbox := rest } : State).tick.counters = f s.counters - 1 := by
    obtain rfl | rfl | rfl | rfl := hf <;> rfl
  rw [hdown]
  omega

end Sys2Proof.Proofs
end

section
/-! PROOFS. The parameter byte (40_phase_machine_and_dispatch.md R65, R68, R72): it is stored and parsed, and the last one runs
the command its bytes decode to. -/

namespace Sys2Proof.Machine

/-- The commands of the standard layout have eight parameter bytes (R53). -/
theorem paramCount_of_standard {j : Fin 16} (h : (descriptor j).layout = .standard) : (descriptor j).paramCount = 8 := by
  revert j; decide

/-- The command fetched with the last parameter byte is the one the command's bytes decode to (R72). -/
theorem State.fetched_acceptParam {s : State} {cmd b : Byte} {i : Instr} (hindex : s.cmdIndex = selectIndex cmd)
    (hflags : s.flags = ⟨mtOf cmd, mfOf cmd, skOf cmd⟩) (hlast : s.comm.counter + 1 = s.active.paramCount)
    (hdecode : decode (cmd :: (s.accepted ++ [b])) = .ok (i, [])) :
    (s.acceptParam b).fetched (opcodeAt s.cmdIndex) = i := by
  have hcount : s.comm.counter + 1 = (descriptor s.cmdIndex).paramCount := hlast
  have hroom : s.comm.counter < 9 := by
    have hle := paramCount_le_eight s.cmdIndex
    omega
  have hparams : s.cmdIndex ≠ 15 := fun h15 => absurd (((paramCount_eq_zero _).2 (.inr h15)).symm.trans hcount.symm) (by simp)
  have hlength : (s.accepted ++ [b]).length = (descriptor (selectIndex cmd)).paramCount := by
    rw [List.length_append, State.accepted_length hroom, List.length_singleton, hcount, hindex]
  rw [State.fetched_eq _ _ (opcodeOf cmd) (by simpa using hcount) (.inl (by simpa using hparams)), State.acceptParam_cmdIndex,
    State.acceptParam_flags, State.accepted_acceptParam s b hroom, hflags, hindex]
  exact (eq_instrOf_of_decode hdecode hlength).symm

end Sys2Proof.Machine

namespace Sys2Proof.Proofs

open Sys2Proof.Machine

/-- Settles O11: the byte is not the last of the eight, and the standard parser has a field for each position. -/
theorem standardParameterByteIsStored : Obligations.StandardParameterByteIsStored := by
  intro s b rest hin hph hlayout hkind hposition
  have hcount := paramCount_of_standard hlayout
  have hstub : (descriptor s.cmdIndex).kind ≠ .stub := fun h => absurd (h.symm.trans hkind) (by decide)
  have hstep := step_dataWrite_command hph hstub (by omega) hin
  rw [if_neg (by omega)] at hstep
  have hactive : ({ s with inbox := rest } : State).active.layout = .standard := hlayout
  refine ⟨_, hstep, ?_, ?_⟩
  · rw [State.acceptParam_p, hactive]
    generalize s.comm.counter = k at hposition
    interval_cases k <;> rfl
  · rw [State.acceptParam_eq b (by rw [hactive]; decide), hactive]
    rfl

/-- Settles O17: the command fetched is the one decoded. -/
theorem stepRunsTheDecodedCommand : Obligations.StepRunsTheDecodedCommand := by
  intro s cmd b rest i hin hph hindex hflags hkind hlast hdecode
  have hcount : s.comm.counter + 1 = (descriptor s.cmdIndex).paramCount := hlast
  rw [step_dataWrite_command hph hkind (by omega) hin, if_pos hcount]
  exact congrArg (exec · _) (State.fetched_acceptParam (s := { s with inbox := rest }) hindex hflags hlast hdecode)

end Sys2Proof.Proofs
end

section
/-! PROOFS. The shared procedures of the read family (41_read_family.md R78 to R82): the size rule, the state a sector loop
starts in, one pass of the loop, and its end. -/

namespace Sys2Proof.Machine

/-! ## The start of a sector loop (R78, R80) -/

/-- The state the preamble hands to the loop of a read command with operands `a`: the size rule applied, ST0 to ST2 cleared, the
execution buffer empty. -/
def State.readStart (f : CommandFlags) (a : StdOperands) (s : State) : State :=
  { s with flags := f, p := { stdParameters a with dtl := if a.n = 0 then a.dtl else 0xFF },
           bank := { s.bank with st0 := 0, st1 := 0, st2 := 0 }, xbuf := { s.xbuf with mem := [], wr := 0 } }

theorem State.sized_withOperands (s : State) (f : CommandFlags) (a : StdOperands) :
    (s.withOperands f (stdParameters a)).sized = s.readStart f a := by
  have hsizes : (stdParameters a).computeSizes = { stdParameters a with dtl := if a.n = 0 then a.dtl else 0xFF } := by
    rw [CommandParameters.computeSizes, show (stdParameters a).n = a.n from rfl]
    split_ifs <;> rfl
  simp only [State.sized, State.readStart, State.withOperands_p, hsizes]
  rfl

theorem ReadFrame.readStart (s : State) (f : CommandFlags) (a : StdOperands) : ReadFrame s (s.readStart f a) := by
  constructor <;> rfl

theorem State.readStart_holds (s : State) (f : CommandFlags) (a : StdOperands) : (s.readStart f a).xbuf.holds [] :=
  s.xbuf.holds_clear

/-- READ_DATA and READ_DELETED_DATA with a track under the head (R83, R84). -/
theorem exec_readCommand_of_track (w mt mf sk : Bool) {a : StdOperands} {s : State} {tr : Track}
    (hready : s.isReady a.hu.us = true) (htrack : s.trackUnderHead a.hu.us = some tr) :
    exec (if w then .readDeletedData mt mf sk a else .readData mt mf sk a) s =
      (s.readStart ⟨mt, mf, sk⟩ a).readLoop w tr 255 := by
  rw [exec_readCommand, State.completeRead_of_track (p := stdParameters a) hready htrack, State.sized_withOperands]

theorem exec_readCommand_frame {w mt mf sk : Bool} {a : StdOperands} {s t : State}
    (h : exec (if w then .readDeletedData mt mf sk a else .readData mt mf sk a) s = .next t) :
    t.drives = s.drives ∧ ReadFrame s t := by
  have hend := State.completeRead_readEnd (exec_readCommand .. ▸ h)
  exact ⟨hend.drives, (ReadFrame.withOperands s _ _).trans hend.frame⟩

/-! ## The end of a read (R82) -/

theorem State.finish_eq (t : Track) (i : Nat) (s : State) :
    s.finish t i = { s with
      phase := if s.xbuf.wr = 0 then .result else .execution
      bank := { s.bank with st1 := s.bank.st1 ||| (if i + 1 = t.sectors.length then 0x80 else 0x00) }
      p := { s.p with c := if i + 1 = t.sectors.length then s.p.c + 1 else s.p.c,
                      r := if i + 1 = t.sectors.length then 1 else s.p.r + 1 }
      res := { s.res with bytes :=
        #v[s.bank.st0, s.bank.st1 ||| (if i + 1 = t.sectors.length then 0x80 else 0x00), s.bank.st2,
           if i + 1 = t.sectors.length then s.p.c + 1 else s.p.c, s.p.h,
           if i + 1 = t.sectors.length then 1 else s.p.r + 1, s.p.n] }
      xbuf := { s.xbuf with length := s.xbuf.wr, counter := s.xbuf.wr } } := by
  have hadvance : s.advance t i = { s with
      bank := { s.bank with st1 := s.bank.st1 ||| (if i + 1 = t.sectors.length then 0x80 else 0x00) }
      p := { s.p with c := if i + 1 = t.sectors.length then s.p.c + 1 else s.p.c,
                      r := if i + 1 = t.sectors.length then 1 else s.p.r + 1 } } := by
    by_cases hlast : i + 1 = t.sectors.length <;> simp [State.advance, hlast, setBits, st1EN]
  have hserve : ∀ u : State, u.serve = { u with
      phase := if u.xbuf.wr = 0 then .result else .execution
      xbuf := { u.xbuf with length := u.xbuf.wr, counter := u.xbuf.wr } } := by
    intro u
    by_cases hwr : u.xbuf.wr = 0 <;> simp [State.serve, hwr, Nat.pos_iff_ne_zero]
  rw [State.finish, hserve, hadvance]
  rfl

/-- The table index of a sector is the last one iff no sector follows. -/
theorem index_last_iff {l pre post : List Sector} {x : Sector} (hl : l = pre ++ x :: post) :
    pre.length + 1 = l.length ↔ post = [] := by
  rw [hl, List.length_append, List.length_cons, ← List.length_eq_zero_iff]
  omega

/-! ## A pass of the sector loop (R81) -/

/-- A sector is a mismatch iff its mark is not the one the command wants (R77). -/
theorem Sector.mismatch_eq (w : Bool) (x : Sector) : x.mismatch w = (x.st2.getLsbD 6 != w) := by
  rw [Sector.mismatch, Sector.deleted_eq, Bool.bne_eq_xor]

theorem Sector.mismatch_eq_true {w : Bool} {x : Sector} (h : x.st2.getLsbD 6 ≠ w) : x.mismatch w = true := by
  rw [Sector.mismatch_eq, bne_iff_ne]
  exact h

/-- DataError looks at bit 5 of each status byte, which masking EN off leaves alone (R107). -/
theorem StatusBank.dataError_propagate (b : StatusBank) (x : Sector) :
    (b.propagate x).dataError = (x.st1.getLsbD 5 || x.st2.getLsbD 5) := by
  have h1 : ∀ v : Byte, testBits (clearBits v st1EN) st1DE = v.getLsbD 5 := by decide
  have h2 : ∀ v : Byte, testBits v st2DD = v.getLsbD 5 := by decide
  simp only [StatusBank.dataError, StatusBank.propagate, h1, h2]

/-- Steps 5 and 6 on a sector that raises DataError (`bad`) or ControlMark (`control`) or neither. -/
theorem State.takeSector_eq {w bad control : Bool} {x : Sector} {s : State} (hbad : bad = (x.st1.getLsbD 5 || x.st2.getLsbD 5))
    (hcontrol : control = (!s.flags.sk && (x.st2.getLsbD 6 != w))) :
    s.takeSector w x =
      ({ s with xbuf := s.xbuf.append x.data
                bank := { s.bank with st0 := s.bank.st0 ||| (if bad || control then 0x40 else 0x00)
                                      st1 := x.st1 &&& 0x7F
                                      st2 := x.st2 ||| (if control then 0x40 else 0x00) }
                p := { s.p with eot := if control then s.p.r else s.p.eot } }, bad || control) := by
  simp only [State.takeSector, StatusBank.dataError_propagate, Sector.mismatch_eq, ← hbad, ← hcontrol]
  cases bad <;> cases control <;>
    simp [StatusBank.propagate, StatusBank.markDataError, StatusBank.markControl, setBits, clearBits, st0IC0, st1EN, st2CM,
      BitVec.or_assoc]

/-- A pass over a sector that is not skipped and fits. -/
theorem State.readLoop_copy {w bad control : Bool} {t : Track} {i : Nat} {x : Sector} {s : State}
    (hfind : findSector t.sectors s.p.r = some (i, x)) (hfit : s.xbuf.wr + x.data.length ≤ 32768)
    (hbad : bad = (x.st1.getLsbD 5 || x.st2.getLsbD 5)) (hcontrol : control = (!s.flags.sk && (x.st2.getLsbD 6 != w)))
    (hwanted : s.flags.sk = true → x.st2.getLsbD 6 = w) (n : Nat) :
    ((s.p.r = s.p.eot ∨ bad = true ∨ control = true) → s.readLoop w t n = .next ((s.takeSector w x).1.finish t i)) ∧
    (s.p.r ≠ s.p.eot → bad = false → control = false → s.readLoop w t (n + 1) = (s.takeSector w x).1.nextId.readLoop w t n) := by
  have hcopied : (s.flags.sk && x.mismatch w) = false := by
    cases hsk : s.flags.sk with
    | false => rfl
    | true => exact Sector.mismatch_eq_false (hwanted hsk)
  have hroom : s.xbuf.overflows x.data = false := decide_eq_false (Nat.not_lt.2 hfit)
  obtain ⟨hends, hgoes⟩ := State.readLoop_take hfind hcopied hroom
  have htake := State.takeSector_eq hbad hcontrol
  constructor
  · refine fun h => hends ?_ n
    rw [htake]
    rcases h with heot | hb | hc
    · exact .inl (by simp [← heot])
    · exact .inr (by simp [hb])
    · exact .inr (by simp [hc])
  · intro hne hb hc
    refine hgoes ?_ n
    rw [htake]
    simp [hne, hb, hc]

end Sys2Proof.Machine

namespace Sys2Proof.Proofs

open Sys2Proof.Machine

/-- Settles O41: by the two cases of the size code; the ceilings are the rule's table. -/
theorem sizeRule : Obligations.SizeRule := by
  refine ⟨fun p => ⟨fun hn => if_neg hn, fun hn => if_pos hn, fun hn => if_pos hn, fun hn => ?_⟩, rfl, rfl, rfl, rfl, rfl, rfl, rfl⟩
  rw [sectorSize, if_neg hn, Nat.shiftLeft_eq]

/-- Settles O58: the equation of the end of a read. -/
theorem finishAdvancesAndServes : Obligations.FinishAdvancesAndServes := by
  intro t i s
  refine ⟨_, rfl, ?_⟩
  rw [State.finish_eq]
  exact ⟨rfl, rfl, rfl, rfl, rfl, rfl⟩

/-- Settles O59: the preamble succeeds, and the loop starts in the state it hands on. -/
theorem readCommandIsTheSectorLoop : Obligations.ReadCommandIsTheSectorLoop :=
  fun w mt mf sk _ _ _ hready htrack => exec_readCommand_of_track w mt mf sk hready htrack

/-- Settles O57: `v` is the state in which the sector has been taken. -/
theorem copiedSectorEndsTheLoopOrGoesOn : Obligations.CopiedSectorEndsTheLoopOrGoesOn := by
  intro w t n s pre post x bad control hsectors hpre hx hfit hwf hbad hcontrol hwanted
  have hfind : findSector t.sectors s.p.r = some (pre.length, x) := hsectors ▸ findSector_append hpre hx
  obtain ⟨hends, hgoes⟩ := State.readLoop_copy hfind hfit hbad hcontrol hwanted n
  refine ⟨(s.takeSector w x).1, ?_, fun k => Memory.read_writeList hwf .., hends, ?_⟩
  · rw [State.takeSector_eq hbad hcontrol]
    rfl
  · intro hne hb hc
    rw [hgoes hne hb hc, ← State.takeSector_r s w x]
    rfl

/-- Settles O45: the first pass of the loop takes the sector and ends it. -/
theorem oneSectorReadCompletes : Obligations.OneSectorReadCompletes := by
  intro w mt mf sk a s tr pre post x bad control hready htrack hsectors hpre hx hlength hbad hcontrol hends hwanted
  have hfind : findSector tr.sectors (s.readStart ⟨mt, mf, sk⟩ a).p.r = some (pre.length, x) :=
    hsectors ▸ findSector_append hpre hx
  have hfit : (s.readStart ⟨mt, mf, sk⟩ a).xbuf.wr + x.data.length ≤ 32768 := (Nat.zero_add _).trans_le hlength
  have hrun : exec (if w then .readDeletedData mt mf sk a else .readData mt mf sk a) s =
      .next (((s.readStart ⟨mt, mf, sk⟩ a).takeSector w x).1.finish tr pre.length) := by
    rw [exec_readCommand_of_track w mt mf sk hready htrack]
    exact (State.readLoop_copy hfind hfit hbad hcontrol hwanted 255).1 (hends.imp_left Eq.symm)
  refine ⟨_, hrun, ?_⟩
  have hframe := exec_readCommand_frame hrun
  obtain ⟨-, -, hholds⟩ := ExecBuffer.holds_append (s.readStart_holds ⟨mt, mf, sk⟩ a) x.data
  rw [State.finish_eq, State.takeSector_eq hbad hcontrol] at hframe ⊢
  simp only [index_last_iff hsectors] at hframe ⊢
  refine ⟨?_, Nat.zero_add _, Nat.zero_add _, hholds, ?_, rfl, ?_, hframe⟩
  · simp [State.readStart]
  · simp [State.readStart]
  · simp [State.readStart, stdParameters]

/-- Settles O46: the first pass of the loop skips the sector and ends it. -/
theorem skippedLastSectorGivesResultDirectly : Obligations.SkippedLastSectorGivesResultDirectly := by
  intro w mt mf a s tr pre post x hready htrack hsectors hpre hx heot hunwanted
  have hfind : findSector tr.sectors (s.readStart ⟨mt, mf, true⟩ a).p.r = some (pre.length, x) :=
    hsectors ▸ findSector_append hpre hx
  have hskip : (true && x.mismatch w) = true := Sector.mismatch_eq_true hunwanted
  have hrun : exec (if w then .readDeletedData mt mf true a else .readData mt mf true a) s =
      .next ((s.readStart ⟨mt, mf, true⟩ a).finish tr pre.length) := by
    rw [exec_readCommand_of_track w mt mf true hready htrack]
    exact (State.readLoop_skip hfind hskip).1 heot.symm 255
  refine ⟨_, hrun, ?_⟩
  have hframe := exec_readCommand_frame hrun
  rw [State.finish_eq] at hframe ⊢
  simp only [index_last_iff hsectors] at hframe ⊢
  refine ⟨rfl, rfl, ?_, hframe⟩
  simp [State.readStart, stdParameters]

/-- Settles O56: a pass over the sector changes the id alone, and the command that begins at the next id needs one pass less. -/
theorem skippedSectorIsPassedOver : Obligations.SkippedSectorIsPassedOver := by
  constructor
  · intro w t n s pre post x hsectors hpre hx hsk hunwanted
    have hfind : findSector t.sectors s.p.r = some (pre.length, x) := hsectors ▸ findSector_append hpre hx
    have hskip : (s.flags.sk && x.mismatch w) = true := by
      rw [hsk, Sector.mismatch_eq_true hunwanted, Bool.and_self]
    obtain ⟨hends, hgoes⟩ := State.readLoop_skip hfind hskip
    exact ⟨fun hne => hgoes hne n, fun heq => hends heq n⟩
  · intro w mt mf a s tr pre post x hready htrack hsectors hpre hx heot hunwanted
    have hfind : findSector tr.sectors (s.readStart ⟨mt, mf, true⟩ a).p.r = some (pre.length, x) :=
      hsectors ▸ findSector_append hpre hx
    have hskip : (true && x.mismatch w) = true := Sector.mismatch_eq_true hunwanted
    have hbound : ((s.readStart ⟨mt, mf, true⟩ { a with r := a.r + 1 }).p.eot -
        (s.readStart ⟨mt, mf, true⟩ { a with r := a.r + 1 }).p.r).toNat ≤ 254 := by
      show (a.eot - (a.r + 1)).toNat ≤ 254
      have hne : a.eot.toNat ≠ a.r.toNat := fun h => heot (BitVec.eq_of_toNat_eq h)
      bv_omega
    rw [exec_readCommand_of_track w mt mf true hready htrack,
      exec_readCommand_of_track w mt mf true (a := { a with r := a.r + 1 }) hready htrack,
      State.readLoop_succ w tr 254 _ (State.readLoop_ne_fault w tr 254 _ hbound)]
    exact (State.readLoop_skip hfind hskip).2 (Ne.symm heot) 254

end Sys2Proof.Proofs
end

section
/-! PROOFS. A read of a track that fits the execution buffer (41_read_family.md R81, 20_memory.md R39): the sector loop meets each
id at most once, so it copies no sector twice. -/

namespace Sys2Proof.Machine

/-! ## Data bytes of a list of sectors -/

theorem totalData_append (l l' : List Sector) : totalData (l ++ l') = totalData l + totalData l' := by simp [totalData]

theorem totalData_cons (x : Sector) (l : List Sector) : totalData (x :: l) = x.data.length + totalData l := by simp [totalData]

theorem length_allData (l : List Sector) : (allData l).length = totalData l := by
  simp [allData, totalData, List.length_flatten, Function.comp_def]

theorem totalData_le_of_sublist {l l' : List Sector} (h : l.Sublist l') : totalData l ≤ totalData l' :=
  (h.map _).sum_le_sum fun _ _ => Nat.zero_le _

/-- A stricter filter that drops the sector `x` has that many bytes less. -/
theorem totalData_filter_drop {p q : Sector → Bool} {x : Sector} {l : List Sector} (hx : x ∈ l) (hp : p x = true)
    (hq : q x = false) (hqp : ∀ y, q y = true → p y = true) :
    x.data.length + totalData (l.filter q) ≤ totalData (l.filter p) := by
  have hmono : ∀ k : List Sector, totalData (k.filter q) ≤ totalData (k.filter p) :=
    fun k => totalData_le_of_sublist (List.monotone_filter_right k hqp)
  obtain ⟨pre, post, rfl⟩ := List.append_of_mem hx
  have hpre := hmono pre
  have hpost := hmono post
  rw [List.filter_append, List.filter_append, List.filter_cons_of_pos hp, List.filter_cons_of_neg (by simp [hq]),
    totalData_append, totalData_append, totalData_cons]
  omega

/-! ## The bytes the loop may still copy -/

/-- The data bytes of the sectors with id `r` or one of the `n` ids after it. -/
def dataAhead (l : List Sector) (r : Byte) (n : Nat) : Nat := totalData (l.filter fun x => decide ((x.r - r).toNat ≤ n))

theorem dataAhead_le (l : List Sector) (r : Byte) (n : Nat) : dataAhead l r n ≤ totalData l :=
  totalData_le_of_sublist List.filter_sublist

theorem data_length_le_dataAhead {l : List Sector} {r : Byte} {i : Nat} {x : Sector} (h : findSector l r = some (i, x)) (n : Nat) :
    x.data.length ≤ dataAhead l r n := by
  obtain ⟨pre, post, rfl, -, hr, -⟩ := findSector_eq_some h
  have hmem : x ∈ (pre ++ x :: post).filter fun y => decide ((y.r - r).toNat ≤ n) := by
    simp [hr, -BitVec.toNat_sub]
  have hle := totalData_le_of_sublist (List.singleton_sublist.2 hmem)
  rwa [totalData_cons] at hle

/-- After a pass at `r` the sectors with that id are behind the loop, for no more than 255 ids follow. -/
theorem dataAhead_succ {l : List Sector} {r : Byte} {i : Nat} {x : Sector} (h : findSector l r = some (i, x)) {n : Nat}
    (hn : n < 255) : x.data.length + dataAhead l (r + 1) n ≤ dataAhead l r (n + 1) := by
  have hdist : ∀ y : Byte, (y - (r + 1)).toNat ≤ n → (y - r).toNat ≤ n + 1 := by
    intro y hy
    bv_omega
  obtain ⟨-, -, -, -, hr, -⟩ := findSector_eq_some h
  refine totalData_filter_drop (findSector_mem h) ?_ ?_ ?_
  · simp [hr]
  · have hwrap : (r - (r + 1)).toNat = 255 := by bv_omega
    simp only [hr, hwrap, decide_eq_false_iff_not]
    omega
  · intro y hy
    simpa using hdist y.r (by simpa using hy)

/-- The sector loop copies the bytes ahead of it at most once. -/
theorem State.readLoop_ne_refused (w : Bool) (t : Track) (n : Nat) (s : State) (hn : n ≤ 255)
    (hfit : s.xbuf.wr + dataAhead t.sectors s.p.r n ≤ 32768) (e : Refusal) : s.readLoop w t n ≠ .refused e := by
  have hroom : ∀ (k : Nat) (u : State) (i : Nat) (x : Sector), findSector t.sectors u.p.r = some (i, x) →
      u.xbuf.wr + dataAhead t.sectors u.p.r k ≤ 32768 → ¬u.xbuf.overflows x.data = true := by
    intro k u i x hfind hle
    have hlength := data_length_le_dataAhead hfind k
    simp only [ExecBuffer.overflows, decide_eq_true_eq, execBufSize]
    omega
  induction n generalizing s with
  | zero =>
    unfold State.readLoop
    split
    · simp
    · rename_i i x hfind
      rw [if_neg (hroom 0 s i x hfind hfit)]
      dsimp only
      split <;> split <;> simp
  | succ n ih =>
    unfold State.readLoop
    split
    · simp
    · rename_i i x hfind
      have hahead := dataAhead_succ hfind (Nat.lt_of_succ_le hn)
      split
      · split
        · simp
        · exact ih s.nextId (by omega) (by show s.xbuf.wr + dataAhead t.sectors (s.p.r + 1) n ≤ 32768; omega)
      · rw [if_neg (hroom (n + 1) s i x hfind hfit)]
        dsimp only
        split
        · simp
        · refine ih _ (by omega) ?_
          simp only [State.takeSector_r, State.takeSector_xbuf, ExecBuffer.append_wr]
          omega

/-- A read command of a track that fits completes in Execution or Result. -/
theorem exec_readCommand_completes (w mt mf sk : Bool) {a : StdOperands} {s : State} {tr : Track}
    (hready : s.isReady a.hu.us = true) (htrack : s.trackUnderHead a.hu.us = some tr) (hfit : totalData tr.sectors ≤ 32768) :
    ∃ t, exec (if w then .readDeletedData mt mf sk a else .readData mt mf sk a) s = .next t ∧
      (t.phase = .execution ∨ t.phase = .result) := by
  have hloop := exec_readCommand_of_track w mt mf sk hready htrack
  have hfault := State.readLoop_ne_fault w tr 255 (s.readStart ⟨mt, mf, sk⟩ a) (Nat.le_of_lt_succ (BitVec.isLt _))
  have hrefused := State.readLoop_ne_refused w tr 255 (s.readStart ⟨mt, mf, sk⟩ a) le_rfl
    ((Nat.zero_add _).trans_le ((dataAhead_le ..).trans hfit))
  rw [← hloop] at hfault hrefused
  cases hrun : exec (if w then .readDeletedData mt mf sk a else .readData mt mf sk a) s with
  | next t => exact ⟨t, rfl, (State.completeRead_readEnd (exec_readCommand .. ▸ hrun)).execution_or_result⟩
  | fault f => exact absurd hrun (hfault f)
  | refused e => exact absurd hrun (hrefused e)

end Sys2Proof.Machine

namespace Sys2Proof.Proofs

open Sys2Proof.Machine

/-- Settles O48: for each of the two commands. -/
theorem readOfAFittingTrackCompletes : Obligations.ReadOfAFittingTrackCompletes :=
  fun mt mf sk _ _ _ hready htrack hfit =>
    ⟨exec_readCommand_completes false mt mf sk hready htrack hfit, exec_readCommand_completes true mt mf sk hready htrack hfit⟩

end Sys2Proof.Proofs
end

section
/-! PROOFS. A clean track read from its first sector to its last (41_read_family.md R81 to R84): one copied sector a pass. -/

namespace Sys2Proof.Machine

/-! ## One pass of a clean track -/

/-- No data error, and a sector the command wants. -/
def Sector.Clean (w : Bool) (x : Sector) : Prop := x.st1.getLsbD 5 = false ∧ x.st2.getLsbD 5 = false ∧ x.st2.getLsbD 6 = w

theorem Sector.Clean.noDataError {w : Bool} {x : Sector} (h : x.Clean w) : false = (x.st1.getLsbD 5 || x.st2.getLsbD 5) := by
  rw [h.1, h.2.1, Bool.or_self]

theorem Sector.Clean.noControlMark {w : Bool} {x : Sector} (h : x.Clean w) (sk : Bool) :
    false = (!sk && (x.st2.getLsbD 6 != w)) := by
  rw [h.2.2, bne_self_eq_false, Bool.and_false]

/-- The state after a clean sector has been copied: its bytes, ST1 and ST2 (R81 step 5). -/
def State.copied (x : Sector) (s : State) : State :=
  { s with xbuf := s.xbuf.append x.data, bank := { s.bank with st1 := x.st1 &&& 0x7F, st2 := x.st2 } }

theorem State.copied_holds {s : State} {old : List Byte} (h : s.xbuf.holds old) (x : Sector) :
    (s.copied x).xbuf.holds (old ++ x.data) := ExecBuffer.holds_append h x.data

/-- A pass over a clean sector ends the loop iff its id is the end-of-track id. -/
theorem State.readLoop_clean {w : Bool} {t : Track} {i : Nat} {x : Sector} {s : State} (hx : x.Clean w)
    (hfind : findSector t.sectors s.p.r = some (i, x)) (hfit : s.xbuf.wr + x.data.length ≤ 32768) (n : Nat) :
    (s.p.r = s.p.eot → s.readLoop w t n = .next ((s.copied x).finish t i)) ∧
    (s.p.r ≠ s.p.eot → s.readLoop w t (n + 1) = (s.copied x).nextId.readLoop w t n) := by
  have htake : (s.takeSector w x).1 = s.copied x := by
    rw [State.takeSector_eq hx.noDataError (hx.noControlMark _)]
    simp [State.copied]
  obtain ⟨hends, hgoes⟩ := State.readLoop_copy hfind hfit hx.noDataError (hx.noControlMark _) (fun _ => hx.2.2) n
  rw [htake] at hends hgoes
  exact ⟨fun h => hends (.inl h), fun h => hgoes h rfl rfl⟩

/-- Ids 1 to N in table order, N a byte, and every sector clean. -/
structure Track.Clean (w : Bool) (t : Track) : Prop where
  length : t.sectors.length ≤ 255
  ids : ∀ k x, t.sectors[k]? = some x → x.r = BitVec.ofNat 8 (k + 1)
  sectors : ∀ x ∈ t.sectors, x.Clean w

/-- The id of a place in the table is that of no other place. -/
theorem ofNat_id_injective {j k : Nat} (hj : j ≤ 255) (hk : k ≤ 255) (h : BitVec.ofNat 8 j = BitVec.ofNat 8 k) : j = k := by
  have hnat := congrArg BitVec.toNat h
  simp only [BitVec.toNat_ofNat] at hnat
  omega

/-- On a clean track the search for the id of a place finds its sector. -/
theorem Track.Clean.findSector {w : Bool} {t : Track} (h : t.Clean w) {pre post : List Sector} {x : Sector}
    (hsectors : t.sectors = pre ++ x :: post) :
    findSector t.sectors (BitVec.ofNat 8 (pre.length + 1)) = some (pre.length, x) := by
  have hlength := h.length
  rw [hsectors, List.length_append, List.length_cons] at hlength
  rw [hsectors]
  refine findSector_append (fun y hy hid => ?_) (h.ids pre.length x (by simp [hsectors]))
  obtain ⟨k, hk, rfl⟩ := List.getElem_of_mem hy
  rw [h.ids k pre[k] (by rw [hsectors, List.getElem?_append_left hk, List.getElem?_eq_getElem hk])] at hid
  have := ofNat_id_injective (by omega) (by omega) hid
  omega

/-! ## All passes -/

/-- The sector loop from any place of a clean track to its end: the bytes from there on are copied, and of `P` the id alone
changes. -/
theorem Track.Clean.readLoop {w : Bool} {t : Track} (h : t.Clean w) {last : Sector} (hlast : t.sectors.getLast? = some last)
    {pre post : List Sector} {x : Sector} {n : Nat} {s : State} {old : List Byte} (hsectors : t.sectors = pre ++ x :: post)
    (hr : s.p.r = BitVec.ofNat 8 (pre.length + 1)) (heot : s.p.eot = BitVec.ofNat 8 t.sectors.length) (hn : post.length ≤ n)
    (hold : s.xbuf.holds old) (hfit : s.xbuf.wr + totalData (x :: post) ≤ 32768) :
    ∃ v : State, s.readLoop w t n = .next (v.finish t (t.sectors.length - 1)) ∧ v.xbuf.holds (old ++ allData (x :: post)) ∧
      v.p = { s.p with r := v.p.r } ∧ v.bank = { s.bank with st1 := last.st1 &&& 0x7F, st2 := last.st2 } := by
  induction post generalizing pre x n s old with
  | nil =>
    have hfind := hr ▸ h.findSector hsectors
    have hx := h.sectors x (by simp [hsectors])
    rw [totalData_cons] at hfit
    have hlength : t.sectors.length = pre.length + 1 := by simp [hsectors]
    obtain rfl : x = last := by simpa [hsectors] using hlast
    have hpass := (State.readLoop_clean hx hfind (by omega) n).1 (by rw [hr, heot, hlength])
    refine ⟨s.copied x, by rw [hpass, hlength, Nat.add_sub_cancel], ?_, rfl, rfl⟩
    simpa [allData] using State.copied_holds hold x
  | cons y ys ih =>
    have hfind := hr ▸ h.findSector hsectors
    have hx := h.sectors x (by simp [hsectors])
    rw [totalData_cons] at hfit
    have hshort := h.length
    have hlength : t.sectors.length = pre.length + 1 + (ys.length + 1) := by
      simp only [hsectors, List.length_append, List.length_cons]
      omega
    have hne : s.p.r ≠ s.p.eot := by
      rw [hr, heot]
      intro hid
      have := ofNat_id_injective (by omega) hshort hid
      omega
    obtain ⟨m, rfl⟩ : ∃ m, n = m + 1 := ⟨n - 1, by rw [List.length_cons] at hn; omega⟩
    rw [(State.readLoop_clean hx hfind (by omega) m).2 hne]
    have hsectors' : t.sectors = (pre ++ [x]) ++ y :: ys := by simp [hsectors]
    have hr' : (s.copied x).nextId.p.r = BitVec.ofNat 8 ((pre ++ [x]).length + 1) := by
      simp [State.nextId, State.copied, hr, BitVec.ofNat_add]
    have hfit' : (s.copied x).nextId.xbuf.wr + totalData (y :: ys) ≤ 32768 := by
      simp only [State.nextId, State.copied, ExecBuffer.append_wr]
      omega
    obtain ⟨v, hloop, hholds, hp, hbank⟩ := ih hsectors' hr' heot (Nat.le_of_succ_le_succ hn)
      (State.copied_holds hold x) hfit'
    exact ⟨v, hloop, by simpa [allData] using hholds, hp, hbank⟩

end Sys2Proof.Machine

namespace Sys2Proof.Proofs

open Sys2Proof.Machine

/-- Settles O47: the loop from the first place, in the state in which it starts, and the end at the last. -/
theorem cleanTrackIsReadInFull : Obligations.CleanTrackIsReadInFull := by
  intro w mt mf sk a s tr last hready htrack hlength hids hgood hr heot hlast hfit
  have hclean : tr.Clean w := ⟨hlength, hids, hgood⟩
  obtain ⟨x, post, hsectors⟩ := List.exists_cons_of_ne_nil (State.trackUnderHead_sectors htrack)
  have hend : tr.sectors.length - 1 + 1 = tr.sectors.length := by simp [hsectors]
  have hpasses : post.length ≤ 255 := by
    rw [hsectors, List.length_cons] at hlength
    omega
  obtain ⟨v, hloop, ⟨-, hwr, hholds⟩, hp, hbank⟩ := hclean.readLoop (s := s.readStart ⟨mt, mf, sk⟩ a) (pre := []) (n := 255) hlast
    hsectors hr heot hpasses (s.readStart_holds _ a) ((Nat.zero_add _).trans_le (hsectors ▸ hfit))
  have hrun := (exec_readCommand_of_track w mt mf sk hready htrack).trans hloop
  refine ⟨_, hrun, ?_⟩
  have hdrives := (exec_readCommand_frame hrun).1
  have htotal : v.xbuf.wr = totalData tr.sectors := by rw [hwr, List.nil_append, length_allData, hsectors]
  rw [List.nil_append, ← hsectors] at hholds
  rw [State.finish_eq] at hdrives ⊢
  refine ⟨htotal, htotal, hholds, by rw [htotal], ?_, hdrives⟩
  rw [hp, hbank, if_pos hend, if_pos hend, if_pos hend]
  rfl

end Sys2Proof.Proofs
end

section
/-! PROOFS. The frame of the four read commands (41_read_family.md R78, R83 to R86): what their completion leaves unchanged, and the
execution bytes above what was copied. -/

namespace Sys2Proof.Machine

/-! ## From the preamble to the end of a read -/

theorem State.LoopFrame.prepared (s : State) : s.LoopFrame s.prepared :=
  ⟨ReadFrame.prepared s, rfl, rfl, [], s.xbuf.holds_clear⟩

theorem State.LoopFrame.sized (s : State) : s.LoopFrame s.sized :=
  ⟨ReadFrame.sized s, rfl, rfl, [], s.xbuf.holds_clear⟩

theorem State.LoopFrame.raiseCondition {s v : State} (h : s.LoopFrame v) (x : ShortCircuit) : s.LoopFrame (v.raiseCondition x) := by
  obtain ⟨hframe, hdrives, hflags, hholds⟩ := h
  exact ⟨hframe.trans (ReadFrame.raiseCondition v x), hdrives, hflags, hholds⟩

theorem State.LoopFrame.finish {s v : State} (h : s.LoopFrame v) (t : Track) (i : Nat) : s.LoopFrame (v.finish t i) := by
  obtain ⟨hframe, hdrives, hflags, hholds⟩ := h
  refine ⟨hframe.trans (ReadFrame.finish v t i), (State.finish_drives v t i).trans hdrives,
    (State.finish_flags v t i).trans hflags, ?_⟩
  rw [State.finish_xbuf]
  exact hholds

/-- The three ways the preamble ends are within the frame (R78). -/
theorem State.LoopFrame.readPreamble (s : State) :
    (∃ u, s.LoopFrame u ∧ s.readPreamble = .error u) ∨ ∃ t, s.readPreamble = .ok (s.sized, t) := by
  rw [State.readPreamble_eq]
  split
  · split
    · exact .inr ⟨_, rfl⟩
    · exact .inl ⟨_, (State.LoopFrame.sized s).raiseCondition _, rfl⟩
  · exact .inl ⟨_, (State.LoopFrame.prepared s).raiseCondition _, rfl⟩

/-! ## The commands past their operands -/

/-- READ_DATA and READ_DELETED_DATA (R83, R84). -/
theorem State.LoopFrame.completeRead {w : Bool} {s t : State} (h : s.completeRead w = .next t) : s.LoopFrame t := by
  unfold State.completeRead at h
  obtain ⟨u, hu, heq⟩ | ⟨k, heq⟩ := State.LoopFrame.readPreamble s <;> rw [heq] at h
  · exact Host.Outcome.next.inj h ▸ hu
  · obtain ⟨u, hu, hend⟩ | ⟨u, i, hu, -, hend⟩ | hend | hend :=
      State.readLoop_keeps (P := s.LoopFrame) w k (fun _ hv => hv.nextId) (fun _ x _ hv _ => hv.takeSector w x) 255 s.sized
        (State.LoopFrame.sized s)
    all_goals simp only [hend] at h
    · exact Host.Outcome.next.inj h ▸ hu.raiseCondition _
    · exact Host.Outcome.next.inj h ▸ hu.finish k i
    · exact absurd h (by simp)
    · exact absurd h (by simp)

/-- READ_DIAGNOSTIC (R85). -/
theorem State.LoopFrame.execReadDiagnostic {mf sk : Bool} {a : StdOperands} {s t : State}
    (h : execReadDiagnostic mf sk a s = .next t) :
    (s.withOperands { s.flags with mf := mf, sk := sk } (stdParameters a)).LoopFrame t := by
  unfold Machine.execReadDiagnostic at h
  obtain ⟨u, hu, heq⟩ | ⟨k, heq⟩ :=
    State.LoopFrame.readPreamble (s.withOperands { s.flags with mf := mf, sk := sk } (stdParameters a)) <;> simp only [heq] at h
  · exact Host.Outcome.next.inj h ▸ hu
  · split at h
    · exact absurd h (by simp)
    · rename_i v hv
      exact Host.Outcome.next.inj h ▸ (State.LoopFrame.diagnosticLoop k.sectors _ v hv (State.LoopFrame.sized _)).finish k _

/-! ## The whole commands -/

/-- A buffer that holds some bytes is zero at and above its write cursor. -/
theorem ExecBuffer.holds.read_above {x : ExecBuffer} {data : List Byte} (h : x.holds data) {k : Nat} (hk : x.wr ≤ k) :
    x.mem.read k = 0 := by
  obtain ⟨-, hwr, hread⟩ := h
  rw [hread k, List.getD_eq_default _ _ (hwr ▸ hk)]
  rfl

/-- The frame of a read command from its operands on. -/
theorem State.LoopFrame.of_operands {s t : State} {f : CommandFlags} {p : CommandParameters}
    (h : (s.withOperands f p).LoopFrame t) :
    ReadFrame s t ∧ t.drives = s.drives ∧ t.flags = f ∧ ∀ k, t.xbuf.wr ≤ k → t.xbuf.mem.read k = 0 := by
  obtain ⟨hframe, hdrives, hflags, data, hholds⟩ := h
  exact ⟨(ReadFrame.withOperands s f p).trans hframe, hdrives, hflags, fun _ hk => ExecBuffer.holds.read_above hholds hk⟩

theorem ReadFrame.reportSector (s : State) (d : BitVec 2) (n i : Nat) (x : Sector) : ReadFrame s (s.reportSector d n i x) := by
  constructor <;> rfl

end Sys2Proof.Machine

namespace Sys2Proof.Proofs

open Sys2Proof.Machine

/-- Settles O49: the three reads of data are loops within the frame; READ_ID raises a condition or reports a sector. -/
theorem readCommandsFrame : Obligations.ReadCommandsFrame := by
  intro i s t h
  cases i with
  | readData mt mf sk a => exact (State.LoopFrame.completeRead h).of_operands
  | readDeletedData mt mf sk a => exact (State.LoopFrame.completeRead h).of_operands
  | readDiagnostic mf sk a => exact (State.LoopFrame.execReadDiagnostic h).of_operands
  | readId mf hu =>
    obtain ⟨x, rfl⟩ | ⟨d, n, i, x, rfl⟩ := execReadId_next_cases h
    · exact ⟨(s.readIdStart_frame mf hu).trans (ReadFrame.raiseCondition _ x), rfl, rfl, rfl⟩
    · exact ⟨(s.readIdStart_frame mf hu).trans (ReadFrame.reportSector _ d n i x), rfl, rfl, rfl⟩
  | _ => trivial

end Sys2Proof.Proofs
end

section
/-! PROOFS. READ_DIAGNOSTIC of a whole track and READ_ID of the next sector (41_read_family.md R85, R86). -/

namespace Sys2Proof.Machine

/-! ## READ_DIAGNOSTIC (R85) -/

theorem Sector.differs_iff {p : CommandParameters} {x : Sector} :
    x.differs p = true ↔ x.c ≠ p.c ∨ x.h ≠ p.h ∨ x.r ≠ p.r ∨ x.n ≠ p.n := by
  simp only [Sector.differs, Bool.or_eq_true, bne_iff_ne, or_assoc]

/-- The state in which READ_DIAGNOSTIC's loop ends: the bytes `x` copied, ND set iff `nd`. -/
def State.diagnosed (nd : Bool) (x : ExecBuffer) (s : State) : State :=
  { s with xbuf := x, bank := if nd then s.bank.noData else s.bank }

/-- ST1 at the end: EN, and ND where some record differs. -/
theorem State.diagnosed_st1 (nd : Bool) (x : ExecBuffer) {s : State} (h : s.bank.st1 = 0) :
    (s.diagnosed nd x).bank.st1 ||| 0x80 = if nd then 0x84 else 0x80 := by
  cases nd <;> simp [State.diagnosed, StatusBank.noData, setBits, st1ND, h]

/-- On a track that fits, READ_DIAGNOSTIC is the end of a read at the last record, with every record's bytes copied. -/
theorem exec_readDiagnostic_of_track (mf sk : Bool) {a : StdOperands} {s : State} {tr : Track} (hready : s.isReady a.hu.us = true)
    (htrack : s.trackUnderHead a.hu.us = some tr) (hfit : totalData tr.sectors ≤ 32768) :
    ∃ (nd : Bool) (x : ExecBuffer), (nd = true ↔ ∃ y ∈ tr.sectors, y.c ≠ a.c ∨ y.h ≠ a.h ∨ y.r ≠ a.r ∨ y.n ≠ a.n) ∧
      x.holds (allData tr.sectors) ∧ exec (.readDiagnostic mf sk a) s =
        .next (((s.readStart ⟨s.flags.mt, mf, sk⟩ a).diagnosed nd x).finish tr (tr.sectors.length - 1)) := by
  have hstart := s.readStart_holds ⟨s.flags.mt, mf, sk⟩ a
  obtain ⟨x, hx, -, -, hloop⟩ := (State.diagnosticLoop_spec tr.sectors _ [] hstart).1 ((Nat.zero_add _).trans_le hfit)
  refine ⟨tr.sectors.any fun y => y.differs (s.readStart ⟨s.flags.mt, mf, sk⟩ a).p, x, ?_, hx, ?_⟩
  · simp only [List.any_eq_true, Sector.differs_iff]
    rfl
  · simp only [exec, execReadDiagnostic, State.readPreamble_of_track (p := stdParameters a) hready htrack, State.sized_withOperands,
      hloop]
    rfl

/-! ## READ_ID (R86) -/

/-- READ_ID with a record at the sector index modulo the count. -/
theorem execReadId_of_sector (mf : Bool) {hu : HeadUnit} {s : State} {tr : Track} {x : Sector} (hready : s.isReady hu.us = true)
    (htrack : s.trackUnderHead hu.us = some tr)
    (hx : tr.sectors[(s.drive hu.us).sectorIndex % tr.sectors.length]? = some x) :
    execReadId mf hu s = .next ((s.readIdStart mf hu).reportSector hu.us tr.sectors.length
      ((s.drive hu.us).sectorIndex % tr.sectors.length) x) := by
  have hready' : ∀ u : State, u.drives = s.drives → u.isReady hu.us = true := fun _ h => (State.isReady_congr h _).trans hready
  have htrack' : ∀ u : State, u.drives = s.drives → u.trackUnderHead hu.us = some tr :=
    fun _ h => (State.trackUnderHead_congr h _).trans htrack
  have hindex : ∀ u : State, u.drives = s.drives → u.sectorIndex hu.us = (s.drive hu.us).sectorIndex :=
    fun _ h => congrArg DriveRecord.sectorIndex (State.drive_congr h _)
  have hunit : (headUnitParameters hu).us = hu.us := rfl
  simp only [execReadId, State.withOperands_p, State.withOperands_drives, hunit, hready', htrack', hindex, hx, if_true]
  rfl

end Sys2Proof.Machine

namespace Sys2Proof.Proofs

open Sys2Proof.Machine

/-- Settles O50: the loop copies every record, and the read ends at the track's last one. -/
theorem readDiagnosticReadsTheWholeTrack : Obligations.ReadDiagnosticReadsTheWholeTrack := by
  intro mf sk a s tr hready htrack hfit
  obtain ⟨nd, x, hnd, ⟨-, hwr, hholds⟩, hrun⟩ := exec_readDiagnostic_of_track mf sk hready htrack hfit
  rw [← hnd]
  refine ⟨_, hrun, ?_⟩
  obtain ⟨hframe, hdrives, -, -⟩ := (State.LoopFrame.execReadDiagnostic hrun).of_operands
  have hlast : tr.sectors.length - 1 + 1 = tr.sectors.length :=
    Nat.sub_add_cancel (List.length_pos_iff.2 (State.trackUnderHead_sectors htrack))
  rw [length_allData] at hwr
  have hst1 := State.diagnosed_st1 nd x (s := s.readStart ⟨s.flags.mt, mf, sk⟩ a) rfl
  have hphase : (if x.wr = 0 then Phase.result else .execution) = if totalData tr.sectors = 0 then .result else .execution := by
    rw [hwr]
  rw [State.finish_eq, if_pos hlast, if_pos hlast, if_pos hlast] at hframe hdrives ⊢
  simp only [hst1] at hframe hdrives ⊢
  refine ⟨hwr, hwr, hholds, hphase, ?_⟩
  cases nd with
  | false => exact ⟨rfl, rfl, .inr rfl, iff_of_false (by decide) Bool.false_ne_true, rfl, hdrives, hframe⟩
  | true => exact ⟨rfl, rfl, .inl rfl, iff_of_true rfl rfl, rfl, hdrives, hframe⟩

/-- Settles O51: the record is reported, and the unit's sector index is the one field of the drives written. -/
theorem readIdReportsTheNextSector : Obligations.ReadIdReportsTheNextSector := by
  intro mf hu s tr x hready htrack hx
  refine ⟨_, execReadId_of_sector mf hready htrack hx, rfl, ?_, fun d hd => ?_⟩
  · exact State.drive_setDriveRecord_self ..
  · exact State.drive_setDriveRecord_other _ _ hd

end Sys2Proof.Proofs
end

section
/-! PROOFS. The seek family (42_seek_family.md R87 to R91): a seek moves one unit, a sense answers by the seek state of the unit
`DriveIndex` names, and ST3 bit by bit. -/

namespace Sys2Proof.Machine

/-! ## The unit a seek moves (R88, R89) -/

theorem State.seekTo_drive_self (s : State) (d : BitVec 2) (n : Nat) (x : SeekState) :
    (s.seekTo d n x).drive d = { s.drive d with track := n } :=
  State.drive_setDriveRecord_self s d _

theorem State.seekTo_drive_other (s : State) {d e : BitVec 2} (n : Nat) (x : SeekState) (h : e ≠ d) :
    (s.seekTo d n x).drive e = s.drive e :=
  State.drive_setDriveRecord_other s _ h

theorem State.seekTo_seekState_self (s : State) (d : BitVec 2) (n : Nat) (x : SeekState) :
    (s.seekTo d n x).seekState d = x :=
  State.seekState_setSeekState_self (s.setCurrentTrack d n) d x

theorem State.seekTo_seekState_other (s : State) {d e : BitVec 2} (n : Nat) (x : SeekState) (h : e ≠ d) :
    (s.seekTo d n x).seekState e = s.seekState e :=
  State.seekState_setSeekState_other (s.setCurrentTrack d n) x h

/-! ## The answers of SENSE_INTERRUPT_STATUS (R90) -/

/-- The answer of a sense: ST0 is `v`, the result is `r`, and the unit `DriveIndex` names has the seek state `x`. -/
def State.sensed (v : Byte) (r : ResultBuffer) (x : SeekState) (s : State) : State :=
  ({ s with phase := .result, bank := { s.bank with st0 := v }, res := r } : State).setSeekState s.driveIndex x

theorem State.sensed_seekState_self (s : State) (v : Byte) (r : ResultBuffer) (x : SeekState) :
    (s.sensed v r x).seekState s.driveIndex = x :=
  State.seekState_setSeekState_self _ s.driveIndex x

theorem State.sensed_seekState_other (s : State) (v : Byte) (r : ResultBuffer) (x : SeekState) {d : BitVec 2}
    (h : d ≠ s.driveIndex) : (s.sensed v r x).seekState d = s.seekState d :=
  State.seekState_setSeekState_other ({ s with phase := .result, bank := { s.bank with st0 := v }, res := r } : State) x h

/-- Writing a unit's own seek state back changes nothing. -/
theorem State.setSeekState_of_eq {s : State} {d : BitVec 2} {x : SeekState} (h : s.seekState d = x) : s.setSeekState d x = s := by
  subst h
  simp [State.setSeekState, State.seekState]

/-- A seek or recalibrate of the unit is pending: the sense acknowledges it. -/
theorem exec_senseInterruptStatus_pending {s : State}
    (h : s.seekState s.driveIndex = .seeking ∨ s.seekState s.driveIndex = .recalibrating) :
    exec .senseInterruptStatus s =
      .next (s.sensed 0x20 (s.res.two 0x20 (BitVec.ofNat 8 (s.currentTrack s.driveIndex))) .acknowledged) := by
  obtain h | h := h
  · simp only [exec, execSenseInterruptStatus, h]
    rfl
  · simp only [exec, execSenseInterruptStatus, h]
    rfl

theorem exec_senseInterruptStatus_acknowledged {s : State} (h : s.seekState s.driveIndex = .acknowledged) :
    exec .senseInterruptStatus s = .next (s.sensed 0xC0 (s.res.one 0xC0) .seekIdle) := by
  simp only [exec, execSenseInterruptStatus, h]
  rfl

/-- Nothing is pending: the sense leaves the seek state as it is. -/
theorem exec_senseInterruptStatus_idle {s : State} (h : s.seekState s.driveIndex = .seekIdle) :
    exec .senseInterruptStatus s = .next (s.sensed 0x80 (s.res.one 0x80) .seekIdle) := by
  rw [State.sensed, State.setSeekState_of_eq (s := { s with phase := .result, bank := _, res := _ }) h]
  simp only [exec, execSenseInterruptStatus, h]
  rfl

/-- The three cases of R90. -/
theorem SeekState.pending_or_acknowledged_or_idle (x : SeekState) :
    (x = .seeking ∨ x = .recalibrating) ∨ x = .acknowledged ∨ x = .seekIdle := by
  cases x <;> decide

/-! ## A sense from Idle, its result read byte by byte (R64, R73, R90) -/

theorem run_add_of_next {s t : State} {j : Nat} (k : Nat) (h : run j s = .next t) : run (j + k) s = run k t := by
  induction j generalizing s with
  | zero =>
    obtain rfl := Host.Outcome.next.inj h
    rw [Nat.zero_add]
  | succ j ih =>
    cases hstep : step s with
    | next u =>
      rw [run_succ_of_next hstep] at h
      rw [Nat.add_right_comm, run_succ_of_next hstep, ih h]
    | fault r => simp [run, hstep] at h
    | refused r => simp [run, hstep] at h

/-- The state in which a sense from Idle completes: its command byte accepted, the calls `calls` still to come. -/
def State.senseBegun (s : State) (calls : List BusEvent) : State := ({ s with inbox := calls } : State).acceptCommandByte 0x08

/-- `t` is `s` after a sense that answers `n` result bytes, of which it has read `k + 1`, the last of them `v`, and that gives the
unit `DriveIndex` names the seek state `x`. -/
structure State.SenseRead (s : State) (n k : Nat) (v : Byte) (x : SeekState) (rest : List BusEvent) (t : State) : Prop where
  dout : t.dout = v
  phase : t.phase = if k + 1 = n then .idle else .result
  inbox : t.inbox = rest
  driveIndex : t.driveIndex = s.driveIndex
  seekState : t.seekState t.driveIndex = x
  drives : t.drives = s.drives

/-- The command byte 0x08 in Idle completes SENSE_INTERRUPT_STATUS (R73). -/
theorem step_senseInterruptStatus {s : State} {calls : List BusEvent} (hidle : s.phase = .idle)
    (hin : s.inbox = .write .data 0x08 :: calls) : step s = exec .senseInterruptStatus (s.senseBegun calls) :=
  (step_dataWrite_idle hin hidle).trans (writeIdle_parameterless (by decide) _)

/-- A sense from Idle and the reads of the first `k + 1` bytes of its answer, given what the sense answers. -/
theorem run_senseInterruptStatus {s : State} {v w : Byte} {r : ResultBuffer} {x : SeekState} {n k : Nat} {rest : List BusEvent}
    (hidle : s.phase = .idle) (hin : s.inbox = dataWrites [0x08] ++ (dataReads (k + 1) ++ rest))
    (hexec : exec .senseInterruptStatus (s.senseBegun (dataReads (k + 1) ++ rest)) =
      .next ((s.senseBegun (dataReads (k + 1) ++ rest)).sensed v r x))
    (hcounter : r.counter = 0) (hlength : r.length = n) (hsize : n ≤ 7) (hk : k + 1 ≤ n) (hbyte : r.bytes.toList.getD k 0 = w) :
    ∃ t, run (k + 2) s = .next t ∧ s.SenseRead n k w x rest t := by
  let u := (s.senseBegun (dataReads (k + 1) ++ rest)).sensed v r x
  have hstep : step s = .next u := (step_senseInterruptStatus hidle hin).trans hexec
  have hres : u.res = r := rfl
  have hunread : u.phase = if u.res.counter = u.res.length then .idle else .result := by
    rw [hres, hcounter, hlength, if_neg (by omega)]
    rfl
  have hread : run (k + 1) u = .next (u.resultBytesRead (k + 1) rest) :=
    run_resultBytesRead rest (k + 1) hunread (by rw [hres]; omega) (by rw [hres]; omega) rfl
  refine ⟨_, (run_succ_of_next hstep).trans hread, ?_, ?_, rfl, rfl, ?_, rfl⟩
  · simpa only [State.resultBytesRead, hres, hcounter, Nat.zero_add, Nat.add_sub_cancel, Nat.succ_ne_zero, if_false] using hbyte
  · simp only [State.resultBytesRead, hres, hcounter, hlength, Nat.zero_add]
  · exact (s.senseBegun (dataReads (k + 1) ++ rest)).sensed_seekState_self v r x

theorem ResultBuffer.one_first (v : Byte) (r : ResultBuffer) : (r.one v).bytes.toList.getD 0 0 = v := by
  simp [ResultBuffer.one, List.getD_eq_getElem?_getD]

theorem ResultBuffer.two_first (v w : Byte) (r : ResultBuffer) : (r.two v w).bytes.toList.getD 0 0 = v := by
  simp [ResultBuffer.two, List.getD_eq_getElem?_getD]

theorem ResultBuffer.two_second (v w : Byte) (r : ResultBuffer) : (r.two v w).bytes.toList.getD 1 0 = w := by
  simp [ResultBuffer.two, List.getD_eq_getElem?_getD]

/-! ## ST3 (R25, R91) -/

theorem driveStatus_of_ne_zero {us : BitVec 2} (h : us ≠ 0) (side atTrackZero ready writeProtected : Bool) :
    driveStatus us side atTrackZero ready writeProtected = 0x80 := by
  rw [driveStatus, if_pos (bne_iff_ne.2 h)]
  rfl

/-- Each condition has its own bit, and the other bits are 0. -/
theorem driveStatus_zero_bits (side atTrackZero ready writeProtected : Bool) :
    let v := driveStatus 0 side atTrackZero ready writeProtected
    v.getLsbD 7 = false ∧ v.getLsbD 6 = writeProtected ∧ v.getLsbD 5 = ready ∧ v.getLsbD 4 = atTrackZero ∧
      v.getLsbD 3 = false ∧ v.getLsbD 2 = side ∧ v.extractLsb' 0 2 = (0 : BitVec 2) := by
  revert side atTrackZero ready writeProtected; decide

end Sys2Proof.Machine

namespace Sys2Proof.Proofs

open Sys2Proof.Machine

/-- Settles O39: each sense is answered by the seek state the sense before it left. -/
theorem threeSensesAfterASeek : Obligations.ThreeSensesAfterASeek := by
  intro s rest hidle hpending hin
  simp only [List.append_assoc] at hin
  obtain ⟨t2, hrun2, h2⟩ := run_senseInterruptStatus (n := 2) (k := 0) hidle hin (exec_senseInterruptStatus_pending hpending)
    rfl rfl (by decide) (by decide) (ResultBuffer.two_first ..)
  obtain ⟨t3, hrun3, h3⟩ := run_senseInterruptStatus (n := 2) (k := 1) hidle hin (exec_senseInterruptStatus_pending hpending)
    rfl rfl (by decide) (by decide) (ResultBuffer.two_second ..)
  obtain ⟨t5, hrun5, h5⟩ := run_senseInterruptStatus (n := 1) (k := 0) h3.phase h3.inbox
    (exec_senseInterruptStatus_acknowledged h3.seekState) rfl rfl (by decide) (by decide) (ResultBuffer.one_first ..)
  obtain ⟨t7, hrun7, h7⟩ := run_senseInterruptStatus (n := 1) (k := 0) h5.phase h5.inbox
    (exec_senseInterruptStatus_idle h5.seekState) rfl rfl (by decide) (by decide) (ResultBuffer.one_first ..)
  have hrun5 : run 5 s = .next t5 := (run_add_of_next 2 hrun3).trans hrun5
  have hrun7 : run 7 s = .next t7 := (run_add_of_next 2 hrun5).trans hrun7
  have hunit : t7.driveIndex = s.driveIndex := h7.driveIndex.trans (h5.driveIndex.trans h3.driveIndex)
  exact ⟨t2, t3, t5, t7, hrun2, h2.dout, hrun3, h3.dout, h3.phase, hrun5, h5.dout, h5.phase, hrun7, h7.dout, h7.phase, h7.inbox,
    hunit ▸ h7.seekState, h7.drives.trans (h5.drives.trans h3.drives)⟩

/-- Settles O36: SEEK is the seek of its unit to its cylinder. -/
theorem seekMovesTheHeadAndLatches : Obligations.SeekMovesTheHeadAndLatches := by
  intro hu ncn s
  let u : State := { s with p := seekParameters hu ncn }
  exact ⟨u.seekTo hu.us ncn.toNat .seeking, rfl, rfl, u.seekTo_drive_self .., u.seekTo_seekState_self ..,
    fun d hd => ⟨u.seekTo_drive_other _ _ hd, u.seekTo_seekState_other _ _ hd⟩⟩

/-- Settles O37: RECALIBRATE is the seek of its unit to track 0. -/
theorem recalibrateGoesToTrackZero : Obligations.RecalibrateGoesToTrackZero := by
  intro hu s
  let u : State := { s with p := headUnitParameters hu }
  have hdrive := u.seekTo_drive_self hu.us 0 .recalibrating
  refine ⟨u.seekTo hu.us 0 .recalibrating, rfl, rfl, hdrive, u.seekTo_seekState_self .., ?_,
    fun d hd => ⟨u.seekTo_drive_other _ _ hd, u.seekTo_seekState_other _ _ hd⟩⟩
  rw [State.isAtTrackZero, hdrive]
  rfl

/-- Settles O38, by the three cases of the unit's seek state. -/
theorem senseInterruptAnswersBySeekState : Obligations.SenseInterruptAnswersBySeekState := by
  intro s
  obtain hx | hx | hx := (s.seekState s.driveIndex).pending_or_acknowledged_or_idle
  · refine ⟨_, exec_senseInterruptStatus_pending hx, rfl, fun d hd => s.sensed_seekState_other _ _ _ hd,
      fun _ => ⟨rfl, rfl, s.sensed_seekState_self .., rfl⟩, fun h => ?_, fun h => ?_⟩
    · simp [h] at hx
    · simp [h] at hx
  · refine ⟨_, exec_senseInterruptStatus_acknowledged hx, rfl, fun d hd => s.sensed_seekState_other _ _ _ hd, fun h => ?_,
      fun _ => ⟨rfl, rfl, s.sensed_seekState_self .., rfl⟩, fun h => ?_⟩
    · simp [hx] at h
    · simp [hx] at h
  · refine ⟨_, exec_senseInterruptStatus_idle hx, rfl, fun d hd => s.sensed_seekState_other _ _ _ hd, fun h => ?_, fun h => ?_,
      fun _ => ⟨rfl, rfl, s.sensed_seekState_self .., rfl⟩⟩
    · simp [hx] at h
    · simp [hx] at h

/-- Settles O40: the byte is the fault bit for a unit other than 0, and unit 0's conditions bit by bit. -/
theorem senseDriveStatusComposesST3 : Obligations.SenseDriveStatusComposesST3 := by
  intro hu s
  refine ⟨driveStatus hu.us hu.hd (s.isAtTrackZero 0) (s.isReady 0) (s.isWriteProtected 0), rfl,
    fun hne => driveStatus_of_ne_zero hne .., fun hzero => ?_⟩
  have hready : s.isReady 0 = ((s.drive 0).ready && (s.drive 0).disk.isSome) := by simp [State.isReady]
  have htrack : s.isAtTrackZero 0 = decide ((s.drive 0).track = 0) := rfl
  rw [hzero, ← hready, ← htrack]
  exact driveStatus_zero_bits ..

end Sys2Proof.Proofs
end

section
/-! PROOFS. SPECIFY and INVALID (43_specify_invalid.md R92, R93): what SPECIFY's two bytes leave, said once in full, its whole
dialogue, and both completions. -/

namespace Sys2Proof.Machine

/-! ## The times SPECIFY's operands stand for (R54, R92) -/

/-- The four Specify fields (R15) converted from SPECIFY's operands. -/
def specifyTimes (a : SpecifyOperands) : SpecifyTimes :=
  { srt := stepRateTime a.srt, hut := headUnloadTime a.hut, hlt := headLoadTime a.hlt, nd := a.nd }

/-- The countdown counters loaded with the three Specify times (R16, R92). -/
def Countdown.load (t : SpecifyTimes) (c : Countdown) : Countdown := { c with srt := t.srt, hut := t.hut, hlt := t.hlt }

theorem exec_specify (a : SpecifyOperands) (s : State) :
    exec (.specify a) s = .next { s with phase := .idle, times := specifyTimes a } := rfl

theorem exec_invalid (mt mf sk : Bool) (op : BitVec 5) (s : State) :
    exec (.invalid mt mf sk op) s = .next { s with
      phase := .result, flags := ⟨mt, mf, sk⟩, bank := { s.bank with st0 := st0Unknown }, res := s.res.one st0Unknown } := rfl

/-! ## SPECIFY's bytes accepted (R65, R92) -/

/-- A parameter byte of SPECIFY is latched, stored and counted, and the rest is what its parser leaves. -/
theorem State.acceptParam_specify {s : State} (b : Byte) (h : s.active.layout = .specify) :
    s.acceptParam b =
      { s.parseSpecify s.comm.counter b with
        lastReceived := b, comm := ⟨s.comm.bytes.setIfInBounds s.comm.counter b, s.comm.counter + 1⟩ } := by
  rw [State.active] at h
  simp only [State.acceptParam, State.parseParamByte, h]
  rcases s.comm.counter with - | - | k <;> rfl

/-- Both bytes accepted: the four fields hold the operands' times, and the counters are loaded with them. -/
theorem State.acceptParams_specify {s : State} (b0 b1 : Byte) (hlayout : s.active.layout = .specify)
    (hfirst : s.comm.counter = 0) :
    s.acceptParams [b0, b1] =
      { s with
        lastReceived := b1, comm := ⟨(s.comm.bytes.setIfInBounds 0 b0).setIfInBounds 1 b1, 2⟩,
        times := specifyTimes (SpecifyOperands.ofBytes b0 b1),
        counters := s.counters.load (specifyTimes (SpecifyOperands.ofBytes b0 b1)) } := by
  have hactive : (s.acceptParam b0).active.layout = .specify := by rwa [State.acceptParam_active]
  calc s.acceptParams [b0, b1]
      = (s.acceptParam b0).acceptParam b1 := rfl
    _ = _ := by
      rw [State.acceptParam_specify b1 hactive, State.acceptParam_specify b0 hlayout, hfirst]
      rfl

theorem encode_specify_ofBytes (b0 b1 : Byte) : encode (.specify (SpecifyOperands.ofBytes b0 b1)) = [0x03, b0, b1] := by
  have hhead : (Instr.specify (SpecifyOperands.ofBytes b0 b1)).head = 0x03 := rfl
  rw [encode, hhead, Instr.params, SpecifyOperands.byte0_ofBytes, SpecifyOperands.byte1_ofBytes]

end Sys2Proof.Machine

namespace Sys2Proof.Proofs

open Sys2Proof.Machine

/-- Settles O33: the three bytes are SPECIFY's encoding, so the writes run to its completion in the state that has
accepted them. -/
theorem specifyLoadsTimesAndCounters : Obligations.SpecifyLoadsTimesAndCounters := by
  intro s b0 b1 rest hidle hin
  let u := ({ s with inbox := rest } : State).acceptCommandByte 0x03
  have hencode := encode_specify_ofBytes b0 b1
  have hrun : run 3 s = exec (.specify (SpecifyOperands.ofBytes b0 b1)) (u.acceptParams [b0, b1]) := by
    have hwhole := wholeCommandRunsToItsMeaning (.specify (SpecifyOperands.ofBytes b0 b1)) s rest rfl
      (by decide : (descriptor 10).kind ≠ .stub) hidle (by rwa [hencode])
    rwa [hencode] at hwhole
  have hlayout : u.active.layout = .specify := (by decide : (descriptor (selectIndex 0x03)).layout = .specify)
  rw [exec_specify, State.acceptParams_specify b0 b1 hlayout rfl] at hrun
  exact ⟨_, hrun, rfl, rfl, rfl, rfl, rfl, rfl, rfl, rfl, rfl, rfl, rfl, rfl⟩

/-- Settles O34: SPECIFY's completion, its conversions written out. -/
theorem specifyCompletes : Obligations.SpecifyCompletes := exec_specify

/-- Settles O35: INVALID's completion, its one result byte written out. -/
theorem invalidReportsUnknownCommand : Obligations.InvalidReportsUnknownCommand := exec_invalid

end Sys2Proof.Proofs
end

section
/-! PROOFS. The write and scan stubs (44_write_scan_stubs.md R94 to R101): refused under `refuse`, empty under `wedge`, and the
controller a stub's command byte leaves hung. -/

namespace Sys2Proof.Machine

/-! ## A stub's meaning under each policy (R94, R101) -/

theorem exec_stub_of_refuse {i : Instr} {s : State} (hkind : (descriptor i.index).kind = .stub) (hpolicy : s.policy = .refuse) :
    exec i s = .refused .stubCommand := by
  rw [exec_stub hkind, State.stubRoutine, hpolicy]

theorem exec_stub_of_wedge {i : Instr} {s : State} (hkind : (descriptor i.index).kind = .stub) (hpolicy : s.policy = .wedge) :
    exec i s = .next s := by
  rw [exec_stub hkind, State.stubRoutine, hpolicy]

/-- The stubs are the entries 4 to 9 of the Command Table (R51). -/
theorem kind_stub_iff_index (i : Fin 16) : (descriptor i).kind = .stub ↔ 4 ≤ i.val ∧ i.val ≤ 9 := by
  revert i; decide

theorem paramCount_pos_of_stub {i : Fin 16} (h : (descriptor i).kind = .stub) : 1 ≤ (descriptor i).paramCount := by
  obtain ⟨-, hle⟩ := (kind_stub_iff_index i).1 h
  refine Nat.one_le_iff_ne_zero.2 fun hzero => ?_
  rcases (paramCount_eq_zero i).1 hzero with rfl | rfl <;> exact absurd hle (by decide)

/-! ## The hung controller (R101) -/

/-- A stub's command byte has been accepted under `wedge`. -/
structure State.Wedged (s : State) : Prop where
  phase : s.phase = .command
  kind : s.active.kind = .stub
  policy : s.policy = .wedge

/-- What a call other than a reset leaves of a wedged state: the phase, the command with everything accepted for it, and the
policy. -/
structure HangFrame (s t : State) : Prop where
  phase : t.phase = s.phase
  cmdIndex : t.cmdIndex = s.cmdIndex
  comm : t.comm = s.comm
  p : t.p = s.p
  flags : t.flags = s.flags
  policy : t.policy = s.policy
  lastReceived : t.lastReceived = s.lastReceived

theorem HangFrame.refl (s : State) : HangFrame s s := by constructor <;> rfl

theorem HangFrame.trans {s u t : State} (h : HangFrame s u) (h' : HangFrame u t) : HangFrame s t where
  phase := h'.phase.trans h.phase
  cmdIndex := h'.cmdIndex.trans h.cmdIndex
  comm := h'.comm.trans h.comm
  p := h'.p.trans h.p
  flags := h'.flags.trans h.flags
  policy := h'.policy.trans h.policy
  lastReceived := h'.lastReceived.trans h.lastReceived

namespace State.Wedged

theorem withInbox {s : State} (h : s.Wedged) (calls : List BusEvent) : ({ s with inbox := calls } : State).Wedged :=
  ⟨h.phase, h.kind, h.policy⟩

theorem of_hangFrame {s t : State} (h : s.Wedged) (hframe : HangFrame s t) : t.Wedged where
  phase := hframe.phase.trans h.phase
  kind := (congrArg (fun i => (descriptor i).kind) hframe.cmdIndex).trans h.kind
  policy := hframe.policy.trans h.policy

/-- A data write runs the stub's empty routine, and its byte is lost (R65, R101). -/
theorem busWriteData_eq {s : State} (h : s.Wedged) (b : Byte) : busWriteData b s = .next s := by
  have hkind : (descriptor s.cmdIndex).kind = .stub := h.kind
  rw [busWriteData_command b h.phase, writeCommand, if_pos hkind]
  exact exec_stub_of_wedge (by rwa [State.fetched_index]) h.policy

/-- Every call but a reset is answered, and none gets the controller out (R62 to R65, R101). -/
theorem handle_next {s : State} (h : s.Wedged) {e : BusEvent} (he : e.isReset = false) :
    ∃ t, handle e s = .next t ∧ HangFrame s t ∧ t.inbox = s.inbox := by
  match e, he with
  | .read .msr, _ => exact ⟨s.readMainStatus, rfl, by constructor <;> rfl, rfl⟩
  | .read .data, _ => exact ⟨s.readDefaultByte, busReadData_default (.inr (.inl h.phase)), by constructor <;> rfl, rfl⟩
  | .write .msr _, _ => exact ⟨s, rfl, .refl s, rfl⟩
  | .write .data b, _ => exact ⟨s, h.busWriteData_eq b, .refl s, rfl⟩
  | .tick, _ => exact ⟨s.tick, rfl, by constructor <;> rfl, rfl⟩
  | .setDrive d r, _ => exact ⟨s.setDriveRecord d r, rfl, by constructor <;> rfl, rfl⟩

theorem step_next {s : State} (h : s.Wedged) (hcalls : ∀ e ∈ s.inbox, e.isReset = false) :
    ∃ t, step s = .next t ∧ HangFrame s t ∧ t.inbox = s.inbox.drop 1 := by
  cases hin : s.inbox with
  | nil => exact ⟨s, step_nil hin, .refl s, hin⟩
  | cons e rest =>
    obtain ⟨t, hcall, hframe, hinbox⟩ := (h.withInbox rest).handle_next (hcalls e (by simp [hin]))
    exact ⟨t, (step_cons hin).trans hcall, .trans (by constructor <;> rfl) hframe, hinbox⟩

theorem run_next {s : State} (h : s.Wedged) (hcalls : ∀ e ∈ s.inbox, e.isReset = false) (k : Nat) :
    ∃ t, run k s = .next t ∧ HangFrame s t ∧ t.inbox = s.inbox.drop k := by
  induction k generalizing s with
  | zero => exact ⟨s, rfl, .refl s, rfl⟩
  | succ k ih =>
    obtain ⟨u, hstep, hfirst, hleft⟩ := h.step_next hcalls
    have hcalls' : ∀ e ∈ u.inbox, e.isReset = false := fun e he => hcalls e (List.mem_of_mem_drop (hleft ▸ he))
    obtain ⟨t, hrun, hframe, hinbox⟩ := ih (h.of_hangFrame hfirst) hcalls'
    refine ⟨t, (run_succ_of_next hstep).trans hrun, hfirst.trans hframe, ?_⟩
    rw [hinbox, hleft, List.drop_drop, Nat.add_comm]

theorem step_dataRead {s : State} (h : s.Wedged) {rest : List BusEvent} (hin : s.inbox = .read .data :: rest) :
    ∃ u, step s = .next u ∧ u.dout = 0xFF := by
  obtain ⟨-, -, hdefault⟩ := Proofs.dataReadByPhase s rest hin
  exact ⟨_, hdefault (.inr (.inl h.phase)), rfl⟩

theorem step_mainStatusRead {s : State} (h : s.Wedged) {rest : List BusEvent} (hin : s.inbox = .read .msr :: rest) :
    ∃ u, step s = .next u ∧ u.dout = 0x90 := by
  obtain ⟨v, hstep, -, hcommand, -⟩ := Proofs.mainStatusReadByPhase s rest hin
  exact ⟨_, hstep, hcommand h.phase⟩

theorem step_dataWrite {s : State} (h : s.Wedged) {b : Byte} {rest : List BusEvent} (hin : s.inbox = .write .data b :: rest) :
    step s = .next { s with inbox := rest } :=
  (step_cons hin).trans ((h.withInbox rest).busWriteData_eq b)

end State.Wedged

end Sys2Proof.Machine

namespace Sys2Proof.Proofs

open Sys2Proof.Machine

/-- Settles O53: the six are stubs of the Command Table, and a stub is refused. -/
theorem stubCommandsAreRefused : Obligations.StubCommandsAreRefused := by
  intro mt mf sk a f c s hpolicy
  exact ⟨exec_stub_of_refuse rfl hpolicy, exec_stub_of_refuse rfl hpolicy, exec_stub_of_refuse rfl hpolicy,
    exec_stub_of_refuse rfl hpolicy, exec_stub_of_refuse rfl hpolicy, exec_stub_of_refuse rfl hpolicy⟩

/-- Settles O54: the six are stubs of the Command Table, and a stub's routine is empty. -/
theorem stubCommandsAreEmptyUnderWedge : Obligations.StubCommandsAreEmptyUnderWedge := by
  intro mt mf sk a f c s hpolicy
  exact ⟨exec_stub_of_wedge rfl hpolicy, exec_stub_of_wedge rfl hpolicy, exec_stub_of_wedge rfl hpolicy,
    exec_stub_of_wedge rfl hpolicy, exec_stub_of_wedge rfl hpolicy, exec_stub_of_wedge rfl hpolicy⟩

/-- Settles O55: the command byte leaves a wedged state, and every run without a reset keeps the state wedged. -/
theorem wedgedControllerHangs : Obligations.WedgedControllerHangs := by
  constructor
  · intro s b rest hin hidle hkind hpolicy
    have hstep := commandByteBeginsTheCommand s b rest hin hidle (.inr hpolicy) (paramCount_pos_of_stub hkind)
    obtain ⟨hlow, hhigh⟩ := (kind_stub_iff_index _).1 hkind
    exact ⟨_, hstep, rfl, rfl, hlow, hhigh, rfl, hkind, hpolicy, rfl⟩
  · intro s t k hphase hkind hpolicy hcalls hrun
    have hs : s.Wedged := ⟨hphase, hkind, hpolicy⟩
    obtain ⟨u, hrun', hframe, hinbox⟩ := hs.run_next hcalls k
    obtain rfl := Host.Outcome.next.inj (hrun'.symm.trans hrun)
    have ht := hs.of_hangFrame hframe
    exact ⟨ht.phase, hframe.cmdIndex, hframe.comm, hframe.p, hframe.flags, ht.policy, hframe.lastReceived, hinbox,
      fun _ => ht.step_dataRead, fun _ => ht.step_mainStatusRead, fun _ _ => ht.step_dataWrite⟩

end Sys2Proof.Proofs
end

section
/-! PROOFS. The error conditions that end a read command (60_exceptions.md R104 to R106, R111): the unit is not ready, no track is
under its head, no record has the id. -/

namespace Sys2Proof.Machine

/-! ## What a condition reports (R103, R111) -/

/-- ST0 after a condition raised with no status bit set before it. -/
def ShortCircuit.st0 : ShortCircuit → Byte
  | .notReady => 0x48
  | .trackNotFound => 0x48
  | .sectorNotFound => 0x40

/-- ST1 after a condition raised with no status bit set before it. -/
def ShortCircuit.st1 : ShortCircuit → Byte
  | .notReady => 0
  | .trackNotFound => 0
  | .sectorNotFound => 0x04

theorem StatusBank.raise_clear (x : ShortCircuit) (b : StatusBank) :
    b.clear.raise x = { b with st0 := x.st0, st1 := x.st1, st2 := 0 } := by
  cases x <;> simp [StatusBank.raise, StatusBank.clear, setBits, st0IC0, st0NR, st1ND, ShortCircuit.st0, ShortCircuit.st1]

/-- A condition raised where ST0 to ST2 are still as the start of a read cleared them. -/
theorem State.raiseCondition_of_clear {s : State} {b : StatusBank} (h : s.bank = b.clear) (x : ShortCircuit) :
    s.raiseCondition x = { s with
      phase := .result
      bank := { b with st0 := x.st0, st1 := x.st1, st2 := 0 }
      xbuf := { s.xbuf with length := 0, counter := 0 }
      res := { s.res with bytes := #v[x.st0, x.st1, 0, s.p.c, s.p.h, s.p.r, s.p.n] } } := by
  have hbank : s.bank.raise x = { b with st0 := x.st0, st1 := x.st1, st2 := 0 } := by rw [h, StatusBank.raise_clear]
  rw [State.raiseCondition, hbank]
  rfl

/-! ## A condition raised by the preamble (R78, R112) -/

/-- The preamble of a unit that is not ready. -/
theorem State.readPreamble_of_not_ready {s : State} {f : CommandFlags} {p : CommandParameters} (h : s.isReady p.us = false) :
    (s.withOperands f p).readPreamble = .error ((s.withOperands f p).prepared.raiseCondition .notReady) := by
  have hready : (s.withOperands f p).isReady p.us = false := (State.isReady_congr rfl _).trans h
  rw [State.readPreamble_eq, State.withOperands_p, hready, if_neg Bool.false_ne_true]

/-- The preamble of a ready unit with no track under its head, or an empty one. -/
theorem State.readPreamble_of_no_track {s : State} {f : CommandFlags} {p : CommandParameters} (h : s.isReady p.us = true)
    (ht : s.trackUnderHead p.us = none) :
    (s.withOperands f p).readPreamble = .error ((s.withOperands f p).sized.raiseCondition .trackNotFound) := by
  have hready : (s.withOperands f p).isReady p.us = true := (State.isReady_congr rfl _).trans h
  have htrack : (s.withOperands f p).trackUnderHead p.us = none := (State.trackUnderHead_congr rfl _).trans ht
  rw [State.readPreamble_eq, State.withOperands_p, if_pos hready, htrack]

/-- The three commands that begin with the preamble end where it raises a condition (R83 to R85, R111). -/
theorem exec_of_readPreamble_error {mt mf sk : Bool} {a : StdOperands} {s t : State} {i : Instr}
    (hi : i ∈ [Instr.readData mt mf sk a, .readDeletedData mt mf sk a, .readDiagnostic mf sk a])
    (h : (s.withOperands (latchedFlags i s.flags) (stdParameters a)).readPreamble = .error t) : exec i s = .next t := by
  simp only [List.mem_cons, List.not_mem_nil, or_false] at hi
  obtain rfl | rfl | rfl := hi <;> simp only [latchedFlags] at h
  · simp only [exec, execReadData, State.completeRead, h]
  · simp only [exec, execReadDeletedData, State.completeRead, h]
  · simp only [exec, execReadDiagnostic, h]

/-! ## A condition raised by READ_ID (R86) -/

theorem execReadId_of_not_ready (mf : Bool) {hu : HeadUnit} {s : State} (h : s.isReady hu.us = false) :
    execReadId mf hu s = .next ((s.readIdStart mf hu).raiseCondition .notReady) := by
  have hready : (s.readIdStart mf hu).isReady hu.us = false := (State.isReady_congr rfl _).trans h
  exact if_neg (ne_true_of_eq_false hready)

theorem execReadId_of_no_track (mf : Bool) {hu : HeadUnit} {s : State} (h : s.isReady hu.us = true)
    (ht : s.trackUnderHead hu.us = none) :
    execReadId mf hu s = .next ((s.readIdStart mf hu).raiseCondition .trackNotFound) := by
  have hready : ∀ u : State, u.drives = s.drives → u.isReady hu.us = true := fun _ hd => (State.isReady_congr hd _).trans h
  have htrack : ∀ u : State, u.drives = s.drives → u.trackUnderHead hu.us = none :=
    fun _ hd => (State.trackUnderHead_congr hd _).trans ht
  have hunit : (headUnitParameters hu).us = hu.us := rfl
  simp only [execReadId, State.withOperands_p, State.withOperands_drives, hunit, hready, htrack, if_true]
  rfl

/-! ## A condition raised by the sector loop (R81, R106) -/

/-- A pass for an id no record has. -/
theorem State.readLoop_not_found {t : Track} {s : State} (h : ∀ x ∈ t.sectors, x.r ≠ s.p.r) (w : Bool) (n : Nat) :
    s.readLoop w t n = .next (s.raiseCondition .sectorNotFound) := by
  unfold State.readLoop
  rw [findSector_eq_none.2 h]

end Sys2Proof.Machine

namespace Sys2Proof.Proofs

open Sys2Proof.Machine

/-- Settles O42: the preamble raises NotReady before it looks at a size, and so does READ_ID. -/
theorem notReadyShortCircuits : Obligations.NotReadyShortCircuits := by
  constructor
  · intro mt mf sk a s hready i hi
    exact ⟨_, exec_of_readPreamble_error hi (State.readPreamble_of_not_ready hready),
      State.raiseCondition_of_clear (b := s.bank) rfl .notReady⟩
  · intro mf hu s hready
    exact (execReadId_of_not_ready mf hready).trans
      (congrArg Host.Outcome.next (State.raiseCondition_of_clear (b := s.bank) rfl .notReady))

/-- Settles O43: the preamble raises TrackNotFound with the size rule applied, which the result bytes do not show. -/
theorem trackNotFoundShortCircuits : Obligations.TrackNotFoundShortCircuits := by
  constructor
  · intro mt mf sk a s hready htrack i hi
    refine ⟨_, exec_of_readPreamble_error hi (State.readPreamble_of_no_track hready htrack), ?_⟩
    have hframe := (ReadFrame.readStart s (latchedFlags i s.flags) a).trans (ReadFrame.raiseCondition _ .trackNotFound)
    rw [State.sized_withOperands]
    rw [State.raiseCondition_of_clear (b := s.bank) rfl] at hframe ⊢
    exact ⟨rfl, rfl, rfl, rfl, rfl, hframe⟩
  · intro mf hu s hready htrack
    refine ⟨_, execReadId_of_no_track mf hready htrack, ?_⟩
    have hframe := (s.readIdStart_frame mf hu).trans (ReadFrame.raiseCondition _ .trackNotFound)
    rw [State.raiseCondition_of_clear (b := s.bank) rfl] at hframe ⊢
    exact ⟨rfl, rfl, rfl, rfl, rfl, hframe⟩

/-- Settles O44: the pass that finds no record raises the condition; a command's first pass is made in the state the preamble
prepares. -/
theorem sectorNotFoundShortCircuits : Obligations.SectorNotFoundShortCircuits := by
  constructor
  · intro w t n s hmissing
    exact State.readLoop_not_found hmissing w n
  · intro w mt mf sk a s tr hready htrack hmissing
    rw [exec_readCommand_of_track w mt mf sk hready htrack, State.readLoop_not_found (s := s.readStart _ a) hmissing w 255,
      State.raiseCondition_of_clear (b := s.bank) rfl]
    rfl

end Sys2Proof.Proofs
end

section
/-! PROOFS. The outcomes of a step (60_exceptions.md R102, R125): under the invariant no fault, and no refusal but the two the
spec names. -/

namespace Sys2Proof.Machine

/-! ## The outcomes of a completion -/

/-- A next state, or the refusal of a copy past the end of the execution buffer (R39). -/
def NextOrOverflow (o : Host.Outcome State Fault Refusal) : Prop := (∃ t, o = .next t) ∨ o = .refused .execBufferOverflow

/-- The 256 passes of a command's sector loop are enough for every end-of-track id (R81). -/
theorem State.readLoop_nextOrOverflow (w : Bool) (t : Track) (s : State) : NextOrOverflow (s.readLoop w t 255) := by
  have hfault := State.readLoop_ne_fault w t 255 s (Nat.le_of_lt_succ (BitVec.isLt _))
  obtain ⟨u, -, h⟩ | ⟨u, i, -, -, h⟩ | h | h :=
    State.readLoop_keeps (P := fun _ => True) w t (fun _ _ => trivial) (fun _ _ _ _ _ => trivial) 255 s trivial
  · exact .inl ⟨_, h⟩
  · exact .inl ⟨_, h⟩
  · exact .inr h
  · exact absurd h (hfault _)

/-- READ_DATA and READ_DELETED_DATA past their operands (R83, R84). -/
theorem State.completeRead_nextOrOverflow (w : Bool) (s : State) : NextOrOverflow (s.completeRead w) := by
  obtain ⟨u, -, h⟩ | ⟨t, h⟩ := s.readPreamble_cases <;> simp only [State.completeRead, h]
  · exact .inl ⟨u, rfl⟩
  · exact State.readLoop_nextOrOverflow w t s.sized

/-- READ_DIAGNOSTIC (R85). -/
theorem execReadDiagnostic_nextOrOverflow (mf sk : Bool) (a : StdOperands) (s : State) :
    NextOrOverflow (execReadDiagnostic mf sk a s) := by
  unfold execReadDiagnostic
  split
  · exact .inl ⟨_, rfl⟩
  · split
    · exact .inr rfl
    · exact .inl ⟨_, rfl⟩

/-- READ_ID copies nothing (R86). -/
theorem execReadId_next (mf : Bool) (hu : HeadUnit) (s : State) : ∃ t, execReadId mf hu s = .next t := by
  simp only [execReadId]
  split
  · split
    · split <;> exact ⟨_, rfl⟩
    · exact ⟨_, rfl⟩
  · exact ⟨_, rfl⟩

/-- Every command but a stub answers a next state, or it is one of the three that copy sectors and overflows. -/
theorem exec_next_or_overflow {i : Instr} (hkind : (descriptor i.index).kind ≠ .stub) (s : State) :
    (∃ t, exec i s = .next t) ∨ (exec i s = .refused .execBufferOverflow ∧ i.index.val ≤ 2) := by
  cases i with
  | readData mt mf sk a => exact (State.completeRead_nextOrOverflow false _).imp_right fun h => ⟨h, Nat.zero_le 2⟩
  | readDeletedData mt mf sk a => exact (State.completeRead_nextOrOverflow true _).imp_right fun h => ⟨h, one_le_two⟩
  | readDiagnostic mf sk a => exact (execReadDiagnostic_nextOrOverflow mf sk a s).imp_right fun h => ⟨h, Nat.le_refl 2⟩
  | readId mf hu => exact .inl (execReadId_next mf hu s)
  | writeData mt mf a => exact absurd rfl hkind
  | writeId mf a => exact absurd rfl hkind
  | writeDeletedData mt mf a => exact absurd rfl hkind
  | scanEqual mt mf sk a => exact absurd rfl hkind
  | scanLowOrEqual mt mf sk a => exact absurd rfl hkind
  | scanHighOrEqual mt mf sk a => exact absurd rfl hkind
  | specify a => exact .inl ⟨_, rfl⟩
  | seek hu ncn => exact .inl ⟨_, rfl⟩
  | recalibrate hu => exact .inl ⟨_, rfl⟩
  | senseInterruptStatus => exact .inl ((execSenseInterruptStatus_next s).imp fun _ h => h.1)
  | senseDriveStatus hu => exact .inl ⟨_, rfl⟩
  | invalid mt mf sk op => exact .inl ⟨_, rfl⟩

/-! ## The outcomes of a data-register access -/

/-- A command byte is answered, or it is a stub's under `refuse` (R65, R94). -/
theorem writeIdle_next_or_stub (b : Byte) (s : State) :
    (∃ t, writeIdle b s = .next t) ∨
      (writeIdle b s = .refused .stubCommand ∧ s.policy = .refuse ∧ (descriptor (selectIndex b)).kind = .stub) := by
  by_cases hstub : (descriptor (selectIndex b)).kind = .stub
  · cases hpolicy : s.policy with
    | refuse =>
      have hrefuse : (s.acceptCommandByte b).policy = .refuse := hpolicy
      exact .inr ⟨by rw [writeIdle_stub hstub, State.stubRoutine, hrefuse], rfl, hstub⟩
    | wedge => exact .inl ⟨_, writeIdle_begins (.inr hpolicy) (paramCount_pos_of_stub hstub)⟩
  · by_cases hzero : (descriptor (selectIndex b)).paramCount = 0
    · exact .inl ((writeIdle_parameterless_next hzero s).imp fun _ h => h.1)
    · exact .inl ⟨_, writeIdle_begins (.inl hstub) (Nat.pos_of_ne_zero hzero)⟩

/-- A parameter byte is answered, or it completes a read that overflows (R65, R39); a stub is in Command under `wedge` only. -/
theorem Inv.writeCommand_next_or_overflow {s : State} (h : Inv s) (hph : s.phase = .command) (b : Byte) :
    (∃ t, Machine.writeCommand b s = .next t) ∨
      (Machine.writeCommand b s = .refused .execBufferOverflow ∧ s.cmdIndex.val ≤ 2) := by
  by_cases hstub : (descriptor s.cmdIndex).kind = .stub
  · have hwedged : s.Wedged := ⟨hph, hstub, h.stubPhase hph hstub⟩
    exact .inl ⟨s, busWriteData_command b hph ▸ hwedged.busWriteData_eq b⟩
  · have hroom := h.room hph
    rw [writeCommand_eq b hstub (by omega)]
    split
    · simpa using exec_next_or_overflow (i := (s.acceptParam b).fetched (opcodeAt s.cmdIndex)) (by simpa using hstub)
        (s.acceptParam b)
    · exact .inl ⟨_, rfl⟩

/-- A data read is answered: the cursors of a phase that serves bytes are within their buffers (R28, R64). -/
theorem Inv.step_dataRead {s : State} (h : Inv s) {rest : List BusEvent} (hin : s.inbox = .read .data :: rest) :
    ∃ t, step s = .next t := by
  obtain ⟨hexecution, hresult, hdefault⟩ := Proofs.dataReadByPhase s rest hin
  cases hph : s.phase with
  | idle => exact ⟨_, hdefault (.inl hph)⟩
  | command => exact ⟨_, hdefault (.inr (.inl hph))⟩
  | execution =>
    obtain ⟨hbyte, hdirection, -⟩ := h.execPhase hph
    exact ⟨_, hexecution hph hdirection hbyte h.execBound h.execSize.1⟩
  | result => exact ⟨_, hresult hph (Nat.lt_of_lt_of_le (h.resultStrict hph) h.resultSize)⟩

/-- A data write is answered or refused by the phase it is made in (R65). -/
theorem Inv.step_dataWrite {s : State} (h : Inv s) {b : Byte} {rest : List BusEvent} (hin : s.inbox = .write .data b :: rest) :
    (∃ t, step s = .next t) ∨
      (step s = .refused .stubCommand ∧ s.policy = .refuse ∧ s.phase = .idle ∧ (descriptor (selectIndex b)).kind = .stub) ∨
      (step s = .refused .execBufferOverflow ∧ s.phase = .command ∧ s.cmdIndex.val ≤ 2) := by
  have hignored := (Proofs.ignoredWritesChangeNothing s b rest).2 hin
  cases hph : s.phase with
  | idle =>
    rw [step_dataWrite_idle hin hph]
    exact (writeIdle_next_or_stub b _).imp_right fun ⟨hrefused, hpolicy, hstub⟩ => .inl ⟨hrefused, hpolicy, rfl, hstub⟩
  | command =>
    have hs : Inv { s with inbox := rest } := h.of_unread _ _ _ _ _ _ _ _ rest
    have hstep : step s = Machine.writeCommand b { s with inbox := rest } :=
      (step_cons hin).trans (busWriteData_command (s := { s with inbox := rest }) b hph)
    rw [hstep]
    exact (hs.writeCommand_next_or_overflow hph b).imp_right fun ⟨hrefused, hindex⟩ => .inr ⟨hrefused, rfl, hindex⟩
  | execution => exact .inl ⟨_, hignored (.inr ⟨hph, (h.execPhase hph).2.1⟩)⟩
  | result => exact .inl ⟨_, hignored (.inl hph)⟩

end Sys2Proof.Machine

namespace Sys2Proof.Proofs

open Sys2Proof.Machine

/-- Settles O24: by the kinds of calls; only a data write can be refused. -/
theorem stepsNeverFaultAndRefuseOnlyTwoWays : Obligations.StepsNeverFaultAndRefuseOnlyTwoWays := by
  intro s h
  match hin : s.inbox with
  | [] => exact .inl ⟨s, step_nil hin⟩
  | .read .msr :: rest => exact .inl ⟨_, step_cons hin⟩
  | .read .data :: rest => exact .inl (h.step_dataRead hin)
  | .write .msr _ :: rest => exact .inl ⟨_, step_cons hin⟩
  | .write .data b :: rest =>
    refine (h.step_dataWrite hin).imp_right (Or.imp_left ?_)
    exact fun ⟨hrefused, hpolicy, hidle, hstub⟩ => ⟨hrefused, hpolicy, b, rest, rfl, hidle, hstub⟩
  | .tick :: rest => exact .inl ⟨_, step_cons hin⟩
  | .reset :: rest => exact .inl ⟨_, step_cons hin⟩
  | .setDrive _ _ :: rest => exact .inl ⟨_, step_cons hin⟩

end Sys2Proof.Proofs
end

section
/-! PROOFS. The reset call (70_reset_and_hazards.md R121). -/

namespace Sys2Proof.Proofs

open Sys2Proof.Machine

/-- Settles O13: a reset takes every field of R29's table from `State.reset` and the other fields from the state it is made in. -/
theorem resetClearsTheControllerOnly : Obligations.ResetClearsTheControllerOnly := by
  intro s rest hin
  obtain ⟨hphase, hindex, hcomm, hres, hmem, hwr, hlength, hcounter, hflags, hp, htimes, hcounters, hbank, hreceived, hsend, hseek,
    hdrive, -⟩ := resetStateIsTheTable
  exact ⟨({ s with inbox := rest } : State).resetController, step_cons hin, rfl, rfl, rfl, rfl, hphase, hindex, hcomm, hres, hmem,
    hwr, hlength, hcounter, hflags, hp, htimes, hcounters, hbank, hreceived, hsend, hseek, hdrive⟩

end Sys2Proof.Proofs
end
